-- ==== Sys2Proof/Word.lean ====
section
/-! DEFINITION. The bit widths of the nX-U8/100 core (00_scope.md R17). -/
namespace Sys2Proof

/-- A byte, 8 bits (00_scope.md R17). -/
abbrev Byte := BitVec 8

/-- A word, 16 bits: an instruction word, an offset, the contents of a word register (00_scope.md R17). -/
abbrev Word := BitVec 16

/-- A 4-bit register field: the number of the operand's lowest byte register (30_encoding.md R164). -/
abbrev Reg := BitVec 4

/-- A 4-bit code segment number (10_state.md R60). -/
abbrev CodeSeg := BitVec 4

/-- The 2-bit exception level ELEVEL (10_state.md R55). -/
abbrev Level := BitVec 2

end Sys2Proof
end

