-- ==== Sys2Proof/Machine/Flags.lean ====
section
/-! DEFINITION. The bits of PSW and the flag computations (10_state.md R48 to R57, 00_scope.md R28 to R30). -/
namespace Sys2Proof.Machine

/-- A byte with bit `i` replaced. -/
def putBit (v : Byte) (i : Nat) (b : Bool) : Byte :=
  if b then v ||| (1#8 <<< i) else v &&& ~~~(1#8 <<< i)

/-- C, bit 7 of PSW (R49). -/
def flagC (p : Byte) : Bool := p.getLsbD 7
/-- Z, bit 6 of PSW (R50). -/
def flagZ (p : Byte) : Bool := p.getLsbD 6
/-- S, bit 5 of PSW (R51). -/
def flagS (p : Byte) : Bool := p.getLsbD 5
/-- OV, bit 4 of PSW (R52). -/
def flagOV (p : Byte) : Bool := p.getLsbD 4
/-- MIE, bit 3 of PSW (R53). -/
def flagMIE (p : Byte) : Bool := p.getLsbD 3
/-- HC, bit 2 of PSW (R54). -/
def flagHC (p : Byte) : Bool := p.getLsbD 2
/-- ELEVEL, bits 1 and 0 of PSW (R55). -/
def elevelOf (p : Byte) : Level := p.extractLsb' 0 2

/-- PSW with C replaced. -/
def putC (p : Byte) (b : Bool) : Byte := putBit p 7 b
/-- PSW with Z replaced. -/
def putZ (p : Byte) (b : Bool) : Byte := putBit p 6 b
/-- PSW with S replaced. -/
def putS (p : Byte) (b : Bool) : Byte := putBit p 5 b
/-- PSW with OV replaced. -/
def putOV (p : Byte) (b : Bool) : Byte := putBit p 4 b
/-- PSW with MIE replaced. -/
def putMIE (p : Byte) (b : Bool) : Byte := putBit p 3 b
/-- PSW with HC replaced. -/
def putHC (p : Byte) (b : Bool) : Byte := putBit p 2 b
/-- PSW with ELEVEL replaced. -/
def putElevel (p : Byte) (k : Level) : Byte := (p &&& 0xFC#8) ||| k.zeroExtend 8

/-- The result of an addition or subtraction with its five flags (00_scope.md R28, R29). -/
structure Alu (w : Nat) where
  val : BitVec w
  c : Bool
  z : Bool
  s : Bool
  ov : Bool
  hc : Bool
  deriving DecidableEq, Repr

/-- `ADD_N(a, b, cin)` (00_scope.md R28), for N = 8 and N = 16: exact sum, then narrowed. -/
def addN {w : Nat} (a b : BitVec w) (cin : Bool) : Alu w :=
  let sum := a.toNat + b.toNat + cin.toNat
  let r := BitVec.ofNat w sum
  { val := r
    c := decide (2 ^ w ≤ sum)
    z := r == 0
    s := r.msb
    ov := a.msb == b.msb && r.msb != a.msb
    hc := decide (2 ^ (w - 4) ≤ a.toNat % 2 ^ (w - 4) + b.toNat % 2 ^ (w - 4) + cin.toNat) }

/-- `SUB_N(a, b, bin)` (00_scope.md R29), for N = 8 and N = 16: exact difference, then narrowed; C and HC are
borrows. -/
def subN {w : Nat} (a b : BitVec w) (bin : Bool) : Alu w :=
  let r := BitVec.ofInt w ((a.toNat : Int) - b.toNat - bin.toNat)
  { val := r
    c := decide (a.toNat < b.toNat + bin.toNat)
    z := r == 0
    s := r.msb
    ov := a.msb != b.msb && r.msb != a.msb
    hc := decide (a.toNat % 2 ^ (w - 4) < b.toNat % 2 ^ (w - 4) + bin.toNat) }

/-- PSW after an instruction that writes Z, S, OV and HC (INC, DEC, 49_muldiv_misc.md R482). -/
def putZSOVHC {w : Nat} (p : Byte) (x : Alu w) : Byte := putHC (putOV (putS (putZ p x.z) x.s) x.ov) x.hc

/-- PSW after an instruction that writes C, Z, S, OV and HC (10_state.md R56, first row). -/
def putArith {w : Nat} (p : Byte) (x : Alu w) : Byte := putC (putZSOVHC p x) x.c

/-- The same with the sticky Z of ADDC, SUBC and CMPC: Z stays 1 only if it was 1 and the result is zero
(40_arithmetic.md R204). -/
def putArithSticky {w : Nat} (p : Byte) (x : Alu w) : Byte := putZ (putArith p x) (flagZ p && x.z)

/-- PSW after an instruction that writes Z and S from a result (`LOGIC_N`, 00_scope.md R30). -/
def putLogic {w : Nat} (p : Byte) (v : BitVec w) : Byte := putS (putZ p (v == 0)) v.msb

/-- PSW after a load of a group of bytes, least significant first: Z over the whole width, S the top bit
(42_load_store.md R263). -/
def putLoad (p : Byte) (bytes : List Byte) : Byte :=
  putS (putZ p (bytes.all (· == 0))) ((bytes.getLastD 0).msb)

end Sys2Proof.Machine
end

