-- ==== Sys2Proof/Config.lean ====
section
/-! DEFINITION. What an implementation fixes (the parameters of 00_scope.md R8 to R14) and the free values the
spec leaves open (`UNKNOWN_N`, 00_scope.md R27). -/
namespace Sys2Proof

/-- MEMORY_MODEL (00_scope.md R8, 20_memory.md R140). -/
inductive MemoryModel where
  | small
  | large
  deriving DecidableEq, Repr

/-- COPROCESSOR (00_scope.md R14, 45_coprocessor.md R388): no coprocessor fitted; sixteen storage registers;
or a device that may replace the contents of any register between two instructions. -/
inductive Coprocessor where
  | absent
  | storage
  | device
  deriving DecidableEq, Repr

/-- What MEMMAP says is present at an address and whether it is writable (00_scope.md R11). An address in no region
has nothing. -/
inductive MemKind where
  /-- writable memory -/
  | ram
  /-- memory that data accesses only read -/
  | rom
  /-- a memory-mapped device, writable -/
  | device
  /-- a memory-mapped device that data accesses only read -/
  | readOnlyDevice
  deriving DecidableEq, Repr

/-- One entry of MEMMAP: the memory keys `lo` to `hi`, both included (DESIGN CHOICE, log 9). -/
structure Region where
  lo : Nat
  hi : Nat
  kind : MemKind
  deriving DecidableEq, Repr

/-- A maskable interrupt source, by its place in the vector table: source `i` has the vector at 000AH + 2i, so that the
59 sources have the 59 even addresses 000AH to 007EH (00_scope.md R12, 20_memory.md R109). -/
abbrev MiSource := Fin 59

/-- The vector address of a maskable source: an even address from 000AH to 007EH (00_scope.md R12). -/
def miVector (i : MiSource) : Word := BitVec.ofNat 16 (0x000A + 2 * i.val)

/-- The device's rule for choosing among several maskable sources that are pending at once (00_scope.md R12): a fixed
order of the sources, or any other rule, of which nothing is known (log 10). -/
inductive MiRule where
  /-- the pending source that stands first in `Device.miSources` -/
  | order
  /-- some pending source, which one is a free choice -/
  | any
  deriving DecidableEq, Repr

/-- The parameters of a device, fixed for a run (00_scope.md R8 to R14). -/
structure Device where
  /-- MEMORY_MODEL, R8 -/
  memoryModel : MemoryModel
  /-- HAS_LEVEL3, R9: whether ELR3, ECSR3 and EPSW3 are present -/
  hasLevel3 : Bool
  /-- HAS_NMICE, R13: whether an emulator can raise NMICE -/
  hasNmice : Bool
  /-- ROM_WINDOW, R10: the first and last offset of the window in data segment 0, if there is one -/
  romWindow : Option (Word × Word)
  /-- MEMMAP, R11: the first region that holds a key decides -/
  memMap : List Region
  /-- MI_SOURCES, R12: the device's maskable sources, in the order its interrupt controller lists them -/
  miSources : List MiSource
  /-- MI_SOURCES, R12: how the device chooses among several pending sources -/
  miRule : MiRule
  /-- COPROCESSOR, R14 -/
  coprocessor : Coprocessor
  deriving DecidableEq, Repr

/-- The n-th free 8-bit value (`UNKNOWN_8`, 00_scope.md R27). It has no definition: a claim holds for every value
(log 6). -/
opaque Config.freeByte : Nat → BitVec 8

/-- The n-th free 16-bit value (`UNKNOWN_16`, log 6). -/
opaque Config.freeWord : Nat → BitVec 16

/-- The n-th free 4-bit value (`UNKNOWN_4`, log 6). -/
opaque Config.freeNibble : Nat → BitVec 4

/-- The n-th free bit or free choice between two behaviours (`UNKNOWN_1`, and the `any choice` of
93_implementation_defined.md U10; log 6). -/
opaque Config.freeBit : Nat → Bool

end Sys2Proof
end

