-- ==== Sys2Proof/Machine/Memory.lean ====
section
/-! DEFINITION. Memory as a list of listed bytes in one canonical form (20_memory.md R100 to R102, log 3 and log 9). -/
namespace Sys2Proof.Machine

/-- The listed bytes: (memory key, byte) pairs with keys strictly rising and no byte equal to `unlistedByte`. The keys
of the code and data addresses are given by `codeKey` and `dataKey`. -/
abbrev Memory := List Host.Cell

/-- What an unlisted byte reads as. DESIGN CHOICE 00H, unsafe (log 3): the spec leaves memory at power-on open
(70_reset_and_hazards.md R561). -/
def unlistedByte : Byte := 0x00#8

/-- The byte at a key. -/
def Memory.read : Memory → Nat → Byte
  | [], _ => unlistedByte
  | (a, b) :: rest, k => if a = k then b else Memory.read rest k

/-- The memory with the byte at `k` replaced; writing the unlisted byte removes the entry. -/
def Memory.write : Memory → Nat → Byte → Memory
  | [], k, v => if v = unlistedByte then [] else [(k, v)]
  | (a, b) :: rest, k, v =>
    if k < a then (if v = unlistedByte then (a, b) :: rest else (k, v) :: (a, b) :: rest)
    else if k = a then (if v = unlistedByte then rest else (k, v) :: rest)
    else (a, b) :: Memory.write rest k v

/-- The canonical form: keys strictly rising, no listed byte equal to the unlisted one. -/
abbrev Memory.wf (m : Memory) : Prop :=
  m.Pairwise (fun x y => x.1 < y.1) ∧ ∀ c ∈ m, c.2 ≠ unlistedByte

/-- A strictly rising list of keys. -/
abbrev KeySet := List Nat

/-- The set with one key more; a key already in it is not listed twice. -/
def KeySet.add : KeySet → Nat → KeySet
  | [], k => [k]
  | a :: rest, k => if k < a then k :: a :: rest else if k = a then a :: rest else a :: KeySet.add rest k

/-- The set without the keys of a list. -/
def KeySet.remove (ks : KeySet) (gone : List Nat) : KeySet := ks.filter fun k => !gone.contains k

/-- The canonical form of a key set. -/
abbrev KeySet.wf (ks : KeySet) : Prop := ks.Pairwise (· < ·)

end Sys2Proof.Machine
end

