-- ==== Sys2Proof/Machine/Device.lean ====
section
/-! DEFINITION. Where a code or data address lies (20_memory.md R100 to R102, R110, R111) and the example device of
`State.reset` (log 1). -/
namespace Sys2Proof.Machine

/-- The memory key of the code byte `c:o`. Code segment 0 is storage of its own (R101); in segments 1 to 15 the code
byte and the data byte of one address are the same byte (R102). -/
def codeKey (c : CodeSeg) (o : Word) : Nat :=
  if c = 0 then 0x1000000 + o.toNat else c.toNat * 0x10000 + o.toNat

/-- Whether the data address `s:o` lies in the ROM window, which exists in data segment 0 only (R110, R111). -/
def inRomWindow (d : Device) (s : Byte) (o : Word) : Bool :=
  match d.romWindow with
  | none => false
  | some (lo, hi) => s == 0 && decide (lo.toNat ≤ o.toNat) && decide (o.toNat ≤ hi.toNat)

/-- The memory key of the data byte `s:o`: inside the ROM window the key of the code byte `0:o` (R111), elsewhere
the 24-bit data address (R104). -/
def dataKey (d : Device) (s : Byte) (o : Word) : Nat :=
  if inRomWindow d s o then codeKey 0 o else s.toNat * 0x10000 + o.toNat

/-- What the first region of MEMMAP that holds the key says is there (00_scope.md R11); `none` is absent memory. -/
def kindIn : List Region → Nat → Option MemKind
  | [], _ => none
  | g :: rest, k => if g.lo ≤ k ∧ k ≤ g.hi then some g.kind else kindIn rest k

/-- What is present at a memory key. -/
def kindAt (d : Device) (k : Nat) : Option MemKind := kindIn d.memMap k

/-- Whether a device is present at a memory key, writable or not (R11). -/
def isDevice (d : Device) (k : Nat) : Bool := kindAt d k == some .device || kindAt d k == some .readOnlyDevice

/-- Whether a data read finds memory at a key: read-only or writable (R114). -/
def canRead (d : Device) (k : Nat) : Bool := kindAt d k == some .ram || kindAt d k == some .rom

/-- Whether instructions and vectors can be fetched at a key (R108): code memory, writable or not. -/
def canFetch (d : Device) (k : Nat) : Bool := canRead d k

/-- The device `State.reset` names. DESIGN CHOICE, unsafe (log 1): the LARGE model with the level-3 registers, an
emulator and a storage coprocessor, a ROM window at 0100H to 7FFFH, read-only code segment 0, writable memory at every
other address, a maskable source at every vector, the lowest vector chosen first. -/
def exampleDevice : Device where
  memoryModel := .large
  hasLevel3 := true
  hasNmice := true
  romWindow := some (0x0100#16, 0x7FFF#16)
  memMap := [⟨0, 0xFFFFFF, .ram⟩, ⟨0x1000000, 0x100FFFF, .rom⟩]
  miSources := List.finRange 59
  miRule := .order
  coprocessor := .storage

end Sys2Proof.Machine
end

