-- ==== Sys2Proof/Machine/State.lean ====
section
/-! DEFINITION. The state of the machine, the outcomes other than a next state, and the state after reset
(10_state.md; INVENTORY.md lists every field with its rule). -/
namespace Sys2Proof.Machine

/-- A pending hardware interrupt request (60_exceptions.md R504). -/
inductive Request where
  /-- the emulator interrupt -/
  | nmice
  /-- the nonmaskable interrupt -/
  | nmi
  /-- a maskable interrupt, by its source, which fixes its vector address -/
  | mi (source : MiSource)
  deriving DecidableEq, Repr

/-- The machine stops because an address or a window it touches is not there. The spec's word is
`UNDEFINED(reason)` (00_scope.md R27); a stop is safe (log 7). -/
inductive Fault where
  /-- `UNDEFINED(read of absent memory)`, 20_memory.md R114: raised by a data read of a byte where MEMMAP has
  nothing. Safe. -/
  | readAbsent
  /-- `UNDEFINED(write to absent or read-only memory)`, 20_memory.md R116: raised by a data write of a byte where
  MEMMAP has no writable memory and no writable device. Safe. -/
  | writeAbsent
  /-- `UNDEFINED(write to ROM window)`, 20_memory.md R116: raised by a data write inside the ROM window. Safe. -/
  | writeRomWindow
  /-- `UNDEFINED(fetch from absent memory)`, 20_memory.md R108: raised by the fetch of an instruction or a vector
  where MEMMAP has no code memory. Safe. -/
  | fetchAbsent
  deriving DecidableEq, Repr

/-- The model has no meaning for what the machine is asked to do: the other `UNDEFINED(reason)` of the spec
(00_scope.md R27). A stop is safe (log 7). -/
inductive Refusal where
  /-- An instruction whose meaning is not written yet; raised by its arm of `exec`. Safe. -/
  | notModelled (mnemonic : String)
  /-- `UNDEFINED(unlisted encoding)`, 30_encoding.md R185: raised by the fetch of a word that matches no row of the
  opcode table. Safe. -/
  | unlistedEncoding
  /-- `UNDEFINED(prefix after prefix)`, 20_memory.md R124: raised by a DSR prefix word executed right after another.
  Safe. -/
  | prefixAfterPrefix
  /-- `UNDEFINED(level-3 register absent)`, 10_state.md R67: raised by an access to ELR3, ECSR3 or EPSW3 on a device
  without them. Safe. -/
  | level3Absent
  /-- `UNDEFINED(RTI at ELEVEL 0)`, 48_branch.md R461: raised by RTI. Safe. -/
  | rtiAtLevel0
  /-- `UNDEFINED(DIV divisor inside dividend pair)`, 49_muldiv_misc.md R481: raised by DIV. Safe. -/
  | divisorInsideDividend
  /-- `UNDEFINED(segment outside SMALL model)`, 10_state.md R68: raised by B Cadr and BL Cadr. Safe. -/
  | segmentOutsideSmall
  /-- `UNDEFINED(self-modifying code)`, 20_memory.md R148: raised by the fetch of a byte that a store has written.
  Safe. -/
  | selfModifyingCode
  /-- `UNDEFINED(no coprocessor)`, 45_coprocessor.md R388: raised by a coprocessor transfer. Safe. -/
  | noCoprocessor
  deriving DecidableEq, Repr

/-- The outcome of a piece of the machine: a value, a fault or a refusal. -/
abbrev Res (α : Type) := Host.Outcome α Fault Refusal

/-- The whole state (10_state.md R40, R76 to R80; 60_exceptions.md R504). -/
structure State where
  /-- R0 to R15 (R41) -/
  r : Vector Byte 16
  /-- CR0 to CR15, the coprocessor registers (R75) -/
  cr : Vector Byte 16
  /-- PSW (R48): C Z S OV MIE HC ELEVEL, bit 7 on the left -/
  psw : Byte
  /-- PC (R58), the offset of the next instruction -/
  pc : Word
  /-- CSR (R60), the segment of the next instruction -/
  csr : CodeSeg
  /-- LR (R61) -/
  lr : Word
  /-- ELR1 (R62) -/
  elr1 : Word
  /-- ELR2 (R62) -/
  elr2 : Word
  /-- ELR3 (R62, R67) -/
  elr3 : Word
  /-- LCSR (R64) -/
  lcsr : CodeSeg
  /-- ECSR1 (R64) -/
  ecsr1 : CodeSeg
  /-- ECSR2 (R64) -/
  ecsr2 : CodeSeg
  /-- ECSR3 (R64, R67) -/
  ecsr3 : CodeSeg
  /-- EPSW1 (R65) -/
  epsw1 : Byte
  /-- EPSW2 (R65) -/
  epsw2 : Byte
  /-- EPSW3 (R65, R67) -/
  epsw3 : Byte
  /-- SP (R69) -/
  sp : Word
  /-- EA (R70) -/
  ea : Word
  /-- AR (R71), the offset latch of a data access -/
  ar : Word
  /-- DSR (R72) -/
  dsr : Byte
  /-- PFX (R77): the previous instruction was a DSR prefix word -/
  pfx : Bool
  /-- IBLOCK as R78 and 42_load_store.md R260 have it: set by an entry, a reset or a DSR prefix word (log 28) -/
  iblock : Bool
  /-- IBLOCK as 60_exceptions.md R506 has it: set by an entry or a reset, cleared by the completion of any instruction,
  a DSR prefix word too (log 28) -/
  entryBlock : Bool
  /-- how many boundaries of the window after EI are still to come, this one included (70_reset_and_hazards.md R576) -/
  eiWindow : Nat
  /-- how many boundaries of the window after a MOV PSW that cleared MIE are still to come, this one included (R577) -/
  mieWindow : Nat
  /-- the level drawn after a MOV PSW that changed ELEVEL, for the next boundary and instruction (R578) -/
  levelView : Option Level
  /-- REQ, the set of pending requests, as a list without repeats (60_exceptions.md R504) -/
  req : List Request
  /-- the reset input (R560) -/
  resetIn : Bool
  /-- code and data memory (20_memory.md R100) -/
  mem : Memory
  /-- the keys of the segments 1 to 15 that a store has written (R148, log 15); the model's own field -/
  codeStores : KeySet
  /-- how many free values have been drawn (00_scope.md R27, log 6); the model's own field -/
  draws : Nat
  /-- the parameters of the device (00_scope.md R8 to R14), fixed for a run -/
  dev : Device
  deriving DecidableEq, Repr

/-- The machine right after the first reset (10_state.md R85, 70_reset_and_hazards.md R560): PSW, CSR, DSR 0, PFX
clear, IBLOCK set, SP and PC the words the vector table of the empty code memory reads as (log 3, log 4). Every
register the spec states no value for is 0: DESIGN CHOICE, unsafe (log 2). -/
def State.reset : State where
  r := Vector.replicate 16 0
  cr := Vector.replicate 16 0
  psw := 0
  pc := 0
  csr := 0
  lr := 0
  elr1 := 0
  elr2 := 0
  elr3 := 0
  lcsr := 0
  ecsr1 := 0
  ecsr2 := 0
  ecsr3 := 0
  epsw1 := 0
  epsw2 := 0
  epsw3 := 0
  sp := 0
  ea := 0
  ar := 0
  dsr := 0
  pfx := false
  iblock := true
  entryBlock := true
  eiWindow := 0
  mieWindow := 0
  levelView := none
  req := []
  resetIn := false
  mem := []
  codeStores := []
  draws := 0
  dev := exampleDevice

end Sys2Proof.Machine
end

