-- ==== Sys2Proof/Machine/Ops.lean ====
section
/-! DEFINITION. The named operations over registers, memory, the stack and the control registers, the end of an
instruction, and interrupt entry, return and reset (10_state.md, 20_memory.md, 44_push_pop.md, 60_exceptions.md,
70_reset_and_hazards.md). -/
namespace Sys2Proof.Machine

/-- First `x`, then `f` of its value; a stop of `x` is the stop of the whole. -/
def andThen {α β : Type} (x : Res α) (f : α → Res β) : Res β :=
  match x with
  | .next a => f a
  | .fault e => .fault e
  | .refused e => .refused e

/-! General and coprocessor registers -/

/-- `R[n]` (00_scope.md R22). -/
def State.reg (s : State) (n : Reg) : Byte := s.r[n.toNat]'n.isLt

/-- `R[n] <- v` (00_scope.md R22). -/
def State.setReg (s : State) (n : Reg) (v : Byte) : State := { s with r := s.r.set n.toNat v n.isLt }

/-- The `k` bytes of the register group that starts at `R[n]`, lowest-numbered register first (10_state.md R42 to
R44, 42_load_store.md R300). -/
def State.regs (s : State) (n : Reg) (k : Nat) : List Byte := (List.range k).map fun i => s.reg (n + BitVec.ofNat 4 i)

/-- The register group that starts at `R[n]` receives the bytes, lowest-numbered register first. -/
def State.setRegs (s : State) (n : Reg) : List Byte → State
  | [] => s
  | b :: bs => (s.setReg n b).setRegs (n + 1) bs

/-- `ER[n]`: R[n+1] is the high byte (10_state.md R42). -/
def State.er (s : State) (n : Reg) : Word := s.reg (n + 1) ++ s.reg n

/-- `ER[n] <- v` (10_state.md R42). -/
def State.setEr (s : State) (n : Reg) (v : Word) : State :=
  (s.setReg n (v.extractLsb' 0 8)).setReg (n + 1) (v.extractLsb' 8 8)

/-- `CR[n] <- v` (10_state.md R75). -/
def State.setCreg (s : State) (n : Reg) (v : Byte) : State := { s with cr := s.cr.set n.toNat v n.isLt }

/-- The coprocessor register group that starts at `CR[n]` receives the bytes, lowest-numbered register first
(10_state.md R75). -/
def State.setCregs (s : State) (n : Reg) : List Byte → State
  | [] => s
  | b :: bs => (s.setCreg n b).setCregs (n + 1) bs

/-- The stored contents of `CR[n]`. -/
def State.creg (s : State) (n : Reg) : Byte := s.cr[n.toNat]'n.isLt

/-- The bytes a transfer reads from the `k` coprocessor registers that start at `CR[n]`: what is stored, or, where a
device may replace the contents between two instructions, free values (45_coprocessor.md R388, log 14). -/
def State.cregs (s : State) (n : Reg) (k : Nat) : List Byte :=
  (List.range k).map fun i =>
    if s.dev.coprocessor = .device then Config.freeByte (s.draws + i) else s.creg (n + BitVec.ofNat 4 i)

/-! Control registers -/

/-- PSW replaced. -/
def State.setPsw (s : State) (p : Byte) : State := { s with psw := p }

/-- SP replaced. -/
def State.setSp (s : State) (v : Word) : State := { s with sp := v }

/-- EA replaced. -/
def State.setEa (s : State) (v : Word) : State := { s with ea := v }

/-- DSR replaced. -/
def State.setDsr (s : State) (v : Byte) : State := { s with dsr := v }

/-- LR replaced; its bit 0 is always 0 (10_state.md R63, log 17). -/
def State.setLr (s : State) (v : Word) : State := { s with lr := v &&& 0xFFFE#16 }

/-- AR, the offset latch, holds the offset of the data access being made (10_state.md R71, log 27). -/
def State.latchAr (s : State) (off : Word) : State := { s with ar := off }

/-- `k` free values more have been drawn (log 6). -/
def State.drawn (s : State) (k : Nat) : State := { s with draws := s.draws + k }

/-- Whether the device is of the LARGE model (20_memory.md R140). -/
def State.isLarge (s : State) : Bool := s.dev.memoryModel == .large

/-- What a code segment register that holds `v` reads as: 0 in the SMALL model (10_state.md R68). -/
def State.segRead (s : State) (v : CodeSeg) : CodeSeg := if s.isLarge then v else 0

/-- Writing `new` to a code segment register that holds `old`: in the SMALL model the write is ignored
(10_state.md R68). -/
def State.segWrite (s : State) (old new : CodeSeg) : CodeSeg := if s.isLarge then new else old

/-- `CSR <- v` (10_state.md R60, R68). -/
def State.setCsr (s : State) (v : CodeSeg) : State := { s with csr := s.segWrite s.csr v }

/-- `LCSR <- v` (10_state.md R64, R68). -/
def State.setLcsr (s : State) (v : CodeSeg) : State := { s with lcsr := s.segWrite s.lcsr v }

/-- PSW.ELEVEL (10_state.md R55). -/
def State.elevel (s : State) : Level := elevelOf s.psw

/-- The level an instruction that depends on ELEVEL uses: ELEVEL, or, right after a MOV PSW that changed it, the level
drawn there (70_reset_and_hazards.md R578, log 13). -/
def State.useLevel (s : State) : Level := s.levelView.getD s.elevel

/-- Whether the backup registers of a level are present (10_state.md R67). -/
def State.levelPresent (s : State) (k : Level) : Bool := k != 3#2 || s.dev.hasLevel3

/-- `ELR` at level `k`: LR at level 0 (10_state.md R66). -/
def State.elr (s : State) (k : Level) : Word :=
  match k with
  | 0#2 => s.lr
  | 1#2 => s.elr1
  | 2#2 => s.elr2
  | _ => s.elr3

/-- `ELR <- v` at level `k`, bit 0 cleared (10_state.md R63, R66). -/
def State.setElr (s : State) (k : Level) (v : Word) : State :=
  match k with
  | 0#2 => s.setLr v
  | 1#2 => { s with elr1 := v &&& 0xFFFE#16 }
  | 2#2 => { s with elr2 := v &&& 0xFFFE#16 }
  | _ => { s with elr3 := v &&& 0xFFFE#16 }

/-- `ECSR` at level `k`: LCSR at level 0 (10_state.md R66, R68). -/
def State.ecsr (s : State) (k : Level) : CodeSeg :=
  match k with
  | 0#2 => s.segRead s.lcsr
  | 1#2 => s.segRead s.ecsr1
  | 2#2 => s.segRead s.ecsr2
  | _ => s.segRead s.ecsr3

/-- `ECSR <- v` at level `k` (10_state.md R66, R68). -/
def State.setEcsr (s : State) (k : Level) (v : CodeSeg) : State :=
  match k with
  | 0#2 => s.setLcsr v
  | 1#2 => { s with ecsr1 := s.segWrite s.ecsr1 v }
  | 2#2 => { s with ecsr2 := s.segWrite s.ecsr2 v }
  | _ => { s with ecsr3 := s.segWrite s.ecsr3 v }

/-- `EPSW` at level `k`; there is none at level 0 (10_state.md R65, R66). -/
def State.epsw (s : State) (k : Level) : Option Byte :=
  match k with
  | 0#2 => none
  | 1#2 => some s.epsw1
  | 2#2 => some s.epsw2
  | _ => some s.epsw3

/-- `EPSW <- v` at level `k`; nothing at level 0 (10_state.md R66, 43_control_register.md R323). -/
def State.setEpsw (s : State) (k : Level) (v : Byte) : State :=
  match k with
  | 0#2 => s
  | 1#2 => { s with epsw1 := v }
  | 2#2 => { s with epsw2 := v }
  | _ => { s with epsw3 := v }

/-- The state, where the backup registers of level `k` are present; otherwise `UNDEFINED(level-3 register absent)`
(10_state.md R67). -/
def State.needLevel (s : State) (k : Level) : Res State :=
  if s.levelPresent k then .next s else .refused .level3Absent

/-! Data memory -/

/-- `DSEG` (20_memory.md R121): DSR right after a DSR prefix word, else 0. -/
def State.dseg (s : State) : Byte := if s.pfx then s.dsr else 0

/-- `ReadByte(seg:off)` (20_memory.md R114): the byte, and the state after. Memory answers what it holds; what a device
answers is left to the device, here a free value (20_memory.md R145, 00_scope.md R7, log 8). -/
def State.readByte (s : State) (seg : Byte) (off : Word) : Res (Byte × State) :=
  match kindAt s.dev (dataKey s.dev seg off) with
  | some .ram => .next (s.mem.read (dataKey s.dev seg off), s)
  | some .rom => .next (s.mem.read (dataKey s.dev seg off), s)
  | some .device => .next (Config.freeByte s.draws, s.drawn 1)
  | some .readOnlyDevice => .next (Config.freeByte s.draws, s.drawn 1)
  | none => .fault .readAbsent

/-- Whether the byte at a key can be fetched as code and be stored to: segments 1 to 15 (20_memory.md R102, R148). -/
def isSharedKey (k : Nat) : Bool := decide (0x10000 ≤ k) && decide (k < 0x100000)

/-- The byte `v` stored at a key; a store into the segments code is also fetched from is remembered
(20_memory.md R148, log 15). -/
def State.storeByte (s : State) (k : Nat) (v : Byte) : State :=
  { s with
    mem := s.mem.write k v
    codeStores := if isSharedKey k then s.codeStores.add k else s.codeStores }

/-- `WriteByte(seg:off, v)` (20_memory.md R116). A writable device takes the byte, which changes nothing inside the core
or its memory (00_scope.md R7, log 8); read-only memory and a read-only device stop the write (00_scope.md R11). -/
def State.writeByte (s : State) (seg : Byte) (off : Word) (v : Byte) : Res State :=
  if inRomWindow s.dev seg off then .fault .writeRomWindow
  else
    match kindAt s.dev (dataKey s.dev seg off) with
    | some .ram => .next (s.storeByte (dataKey s.dev seg off) v)
    | some .rom => .fault .writeAbsent
    | some .device => .next s
    | some .readOnlyDevice => .fault .writeAbsent
    | none => .fault .writeAbsent

/-- `k` bytes from `seg:off` upwards, and the state after; the offset wraps inside the segment (20_memory.md R114,
R115). -/
def State.readBytes (s : State) (seg : Byte) (off : Word) : Nat → Res (List Byte × State)
  | 0 => .next ([], s)
  | k + 1 =>
    andThen (s.readByte seg off) fun p => andThen (p.2.readBytes seg (off + 1) k) fun q => .next (p.1 :: q.1, q.2)

/-- The bytes to `seg:off` upwards; the offset wraps inside the segment (20_memory.md R115, R116). -/
def State.writeBytes (s : State) (seg : Byte) (off : Word) : List Byte → Res State
  | [] => .next s
  | b :: bs => andThen (s.writeByte seg off b) fun s1 => s1.writeBytes seg (off + 1) bs

/-- The base offset of an access of `k` bytes: bit 0 is ignored for all sizes but the byte (20_memory.md R113). -/
def alignOff (k : Nat) (off : Word) : Word := if k = 1 then off else off &&& 0xFFFE#16

/-- `MemRead(seg:off, k)`, lowest address first (20_memory.md R114). -/
def State.readMem (s : State) (seg : Byte) (off : Word) (k : Nat) : Res (List Byte × State) :=
  s.readBytes seg (alignOff k off) k

/-- `MemWrite(seg:off, k, v)` of the `k` bytes given, lowest address first; the offset is latched in AR
(20_memory.md R116, 10_state.md R71). -/
def State.writeMem (s : State) (seg : Byte) (off : Word) (bytes : List Byte) : Res State :=
  (s.latchAr off).writeBytes seg (alignOff bytes.length off) bytes

/-- EA after a `[EA+]` access of `k` bytes (20_memory.md R127). -/
def eaAfter (k : Nat) (ea : Word) : Word := alignOff k (ea + BitVec.ofNat 16 k)

/-! Code memory -/

/-- One byte of code memory, to be fetched (20_memory.md R108, R148). -/
def State.codeByte (s : State) (c : CodeSeg) (off : Word) : Res Byte :=
  if canFetch s.dev (codeKey c off) then
    if s.codeStores.contains (codeKey c off) then .refused .selfModifyingCode
    else .next (s.mem.read (codeKey c off))
  else .fault .fetchAbsent

/-- `CodeRead16(c:off)` (20_memory.md R108): the even offset holds the low byte (R107). -/
def State.codeRead16 (s : State) (c : CodeSeg) (off : Word) : Res Word :=
  andThen (s.codeByte c (off &&& 0xFFFE#16)) fun lo =>
    andThen (s.codeByte c ((off &&& 0xFFFE#16) + 1)) fun hi => .next (hi ++ lo)

/-! The end of an instruction -/

/-- The latches at the end of a step that executed an instruction or accepted an interrupt: the prefix latch clear,
the windows of R576 and R577 one boundary shorter, the draw of R578 spent. -/
def State.settle (s : State) : State :=
  { s with
    pfx := false
    eiWindow := s.eiWindow - 1
    mieWindow := s.mieWindow - 1
    levelView := none }

/-- `PC <- t`, bit 0 dropped (10_state.md R58). -/
def State.setPc (s : State) (t : Word) : State := { s with pc := t &&& 0xFFFE#16 }

/-- The end of an instruction that continues at offset `t`: both block latches are clear (00_scope.md R32,
60_exceptions.md R506). -/
def State.finish (s : State) (t : Word) : State := { s.settle.setPc t with iblock := false, entryBlock := false }

/-- `NextPC` of a one-word instruction (30_encoding.md R162). -/
def State.nextPc (s : State) : Word := s.pc + 2

/-- `NextPC` of a two-word instruction (30_encoding.md R162). -/
def State.nextPc2 (s : State) : Word := s.pc + 4

/-- The end of a one-word instruction that does not branch. -/
def State.done (s : State) : State := s.finish s.nextPc

/-- The end of a two-word instruction that does not branch. -/
def State.done2 (s : State) : State := s.finish s.nextPc2

/-! The stack (44_push_pop.md R351) -/

/-- `Push8(v)`. -/
def State.push8 (s : State) (v : Byte) : Res State := (s.setSp (s.sp - 1)).writeMem 0 (s.sp - 1) [v]

/-- Pushes of the bytes, first byte first. -/
def State.pushAll (s : State) : List Byte → Res State
  | [] => .next s
  | b :: bs => andThen (s.push8 b) fun s1 => s1.pushAll bs

/-- `Pop8()`: the byte, and the state with SP one higher and the offset latched in AR. -/
def State.pop8 (s : State) : Res (Byte × State) :=
  andThen (s.readByte 0 s.sp) fun p => .next (p.1, (p.2.latchAr s.sp).setSp (s.sp + 1))

/-- `k` pops, first byte first. -/
def State.popAll (s : State) : Nat → Res (List Byte × State)
  | 0 => .next ([], s)
  | k + 1 => andThen s.pop8 fun p => andThen (p.2.popAll k) fun q => .next (p.1 :: q.1, q.2)

/-- `Skip8()`, the dummy cycle of POP: nothing is read (R353). -/
def State.skip8 (s : State) : State := s.setSp (s.sp + 1)

/-- `Push8(UNKNOWN_8)`, the dummy cycle of PUSH (R353): a free byte (log 6, log 19). -/
def State.pushFree (s : State) : Res State := (s.drawn 1).push8 (Config.freeByte s.draws)

/-- The frame of a return address (R352, R344): in the LARGE model a dummy byte and the segment byte above the
offset; the offset high byte first, so that the low byte lies lowest. -/
def State.pushReturn (s : State) (seg : CodeSeg) (off : Word) : Res State :=
  if s.isLarge then
    andThen s.pushFree fun s1 => s1.pushAll [seg.zeroExtend 8, off.extractLsb' 8 8, off.extractLsb' 0 8]
  else s.pushAll [off.extractLsb' 8 8, off.extractLsb' 0 8]

/-- The frame of a return address read back (R349, R352): the offset, the segment (0 in the SMALL model, which stores
none; bits 7 to 4 of the byte are ignored) and the state after. -/
def State.popReturn (s : State) : Res (Word × CodeSeg × State) :=
  andThen s.pop8 fun lo => andThen lo.2.pop8 fun hi =>
    if s.isLarge then
      andThen hi.2.pop8 fun seg => .next (hi.1 ++ lo.1, seg.1.extractLsb' 0 4, seg.2.skip8)
    else .next (hi.1 ++ lo.1, 0, hi.2)

/-! Interrupt entry, return from interrupt, reset -/

/-- `Enter(k, vec, ret, clearMIE)` (60_exceptions.md R510), for k from 1 to 3. `saved` is the value EPSWk receives:
the old PSW, but for the MIE bit in the window of 70_reset_and_hazards.md R577. -/
def State.enter (s : State) (k : Level) (vec ret : Word) (clearMie : Bool) (saved : Byte) : Res State :=
  if s.levelPresent k then
    andThen (s.codeRead16 0 vec) fun t =>
      let s1 := ((s.setElr k ret).setEcsr k (s.segRead s.csr)).setEpsw k saved
      let p1 := putElevel s.psw k
      let s2 := (s1.setPsw (if clearMie then putMIE p1 false else p1)).setCsr 0
      .next { (s2.settle.setPc t) with iblock := true, entryBlock := true }
  else .refused .level3Absent

/-- RTI (48_branch.md R461): CSR, PC and PSW come back from the backup registers of the level it began at. -/
def State.returnFromInterrupt (s : State) : Res State :=
  match s.epsw s.useLevel with
  | none => .refused .rtiAtLevel0
  | some p =>
    andThen (s.needLevel s.useLevel) fun s0 =>
      .next (((s0.setCsr (s0.ecsr s0.useLevel)).setPsw p).finish (s0.elr s0.useLevel))

/-- Sixteen free bytes from draw `d` on. -/
def freeBytes16 (d : Nat) : Vector Byte 16 := Vector.ofFn fun i => Config.freeByte (d + i.val)

/-- The reset sequence (70_reset_and_hazards.md R560): five registers get the values the spec states, every other one a
free value; memory and the pending requests stay (R561, log 5). -/
def State.resetSequence (s : State) : Res State :=
  andThen (s.codeRead16 0 0x0000#16) fun sp =>
    andThen (s.codeRead16 0 0x0002#16) fun pc =>
      let d := s.draws
      .next
        { s with
          psw := 0
          csr := 0
          dsr := 0
          sp := sp
          pc := pc &&& 0xFFFE#16
          r := freeBytes16 d
          cr := freeBytes16 (d + 16)
          epsw1 := Config.freeByte (d + 32)
          epsw2 := Config.freeByte (d + 33)
          epsw3 := Config.freeByte (d + 34)
          lr := Config.freeWord d &&& 0xFFFE#16
          elr1 := Config.freeWord (d + 1) &&& 0xFFFE#16
          elr2 := Config.freeWord (d + 2) &&& 0xFFFE#16
          elr3 := Config.freeWord (d + 3) &&& 0xFFFE#16
          ea := Config.freeWord (d + 4)
          ar := Config.freeWord (d + 5)
          lcsr := s.segRead (Config.freeNibble d)
          ecsr1 := s.segRead (Config.freeNibble (d + 1))
          ecsr2 := s.segRead (Config.freeNibble (d + 2))
          ecsr3 := s.segRead (Config.freeNibble (d + 3))
          pfx := false
          iblock := true
          entryBlock := true
          eiWindow := 0
          mieWindow := 0
          levelView := none
          draws := d + 35 }

end Sys2Proof.Machine
end

