-- ==== Sys2Proof/Machine/Operands.lean ====
section
/-! DEFINITION. The operand forms: addressing modes (20_memory.md R126 to R135), immediates (30_encoding.md R170 to
R179), and the transfers between register groups and data memory (42_load_store.md R301, 45_coprocessor.md). -/
namespace Sys2Proof.Machine

/-- The offset of `[EA]` and `[EA+]` (20_memory.md R126, R127). -/
def State.offEa (s : State) : Word := s.ea

/-- The offset of `[ERm]` (20_memory.md R130). -/
def State.offErm (s : State) (m : Reg) : Word := s.er m

/-- The offset of `Disp16[ERm]` (20_memory.md R131). -/
def State.offDisp16 (s : State) (m : Reg) (disp : Word) : Word := s.er m + disp

/-- The offset of `Disp6[BP]`; BP is ER12 (20_memory.md R128, 10_state.md R45). -/
def State.offBp (s : State) (disp : BitVec 6) : Word := s.er 12#4 + disp.signExtend 16

/-- The offset of `Disp6[FP]`; FP is ER14 (20_memory.md R129, 10_state.md R45). -/
def State.offFp (s : State) (disp : BitVec 6) : Word := s.er 14#4 + disp.signExtend 16

/-- `#imm7` (30_encoding.md R175). -/
def imm7Value (imm : BitVec 7) : Word := imm.signExtend 16

/-- `#signed8` (30_encoding.md R171). -/
def signed8Value (imm : BitVec 8) : Word := imm.signExtend 16

/-- The shift size a register operand gives: its lowest three bits (41_shift.md R240). -/
def shiftSize (v : Byte) : Nat := (v.extractLsb' 0 3).toNat

/-- The target of a relative branch: a signed count of words from NextPC (30_encoding.md R178). -/
def State.relTarget (s : State) (disp : BitVec 8) : Word := s.nextPc + 2#16 * disp.signExtend 16

/-- A load of the `k` registers from `R[n]` on: the offset is latched, the registers are written, Z and S set
(42_load_store.md R263, R300, R301). -/
def State.loadRegs (s : State) (off : Word) (n : Reg) (k : Nat) : Res State :=
  andThen (s.readMem s.dseg off k) fun p =>
    .next (((p.2.latchAr off).setRegs n p.1).setPsw (putLoad s.psw p.1))

/-- A store of the `k` registers from `R[n]` on (42_load_store.md R300, R301). -/
def State.storeRegs (s : State) (off : Word) (n : Reg) (k : Nat) : Res State :=
  s.writeMem s.dseg off (s.regs n k)

/-- The state, where a coprocessor is fitted; otherwise `UNDEFINED(no coprocessor)` (45_coprocessor.md R388). -/
def State.needCoprocessor (s : State) : Res State :=
  if s.dev.coprocessor = .absent then .refused .noCoprocessor else .next s

/-- The state after `k` coprocessor registers are read: free values are drawn where a device may have replaced their
contents (45_coprocessor.md R388). -/
def State.cregsDrawn (s : State) (k : Nat) : State := if s.dev.coprocessor = .device then s.drawn k else s

/-- A load of the `k` coprocessor registers from `CR[n]` on, through EA; no flag changes (45_coprocessor.md R371 to
R378). -/
def State.loadCregs (s : State) (n : Reg) (k : Nat) : Res State :=
  andThen s.needCoprocessor fun s0 =>
    andThen (s0.readMem s0.dseg s0.offEa k) fun p => .next ((p.2.latchAr s0.offEa).setCregs n p.1)

/-- A store of the `k` coprocessor registers from `CR[m]` on, through EA (45_coprocessor.md R380 to R387). -/
def State.storeCregs (s : State) (m : Reg) (k : Nat) : Res State :=
  andThen s.needCoprocessor fun s0 => (s0.cregsDrawn k).writeMem s0.dseg s0.offEa (s0.cregs m k)

/-- EA after a `[EA+]` access of `k` bytes (20_memory.md R127). -/
def State.bumpEa (s : State) (k : Nat) : State := s.setEa (eaAfter k s.ea)

end Sys2Proof.Machine
end

