-- ==== Sys2Proof/Machine/Arith.lean ====
section
/-! DEFINITION. Arithmetic, logic and moves between general registers (40_arithmetic.md). -/
namespace Sys2Proof.Machine

/-- An 8-bit operation that writes its result and C, Z, S, OV, HC. -/
def State.writeArith (s : State) (n : Reg) (x : Alu 8) : State := (s.setReg n x.val).setPsw (putArith s.psw x)

/-- An 8-bit operation that writes its result, C, S, OV, HC and the sticky Z (R204). -/
def State.writeSticky (s : State) (n : Reg) (x : Alu 8) : State := (s.setReg n x.val).setPsw (putArithSticky s.psw x)

/-- An 8-bit operation that writes its result, Z and S. -/
def State.writeLogic (s : State) (n : Reg) (v : Byte) : State := (s.setReg n v).setPsw (putLogic s.psw v)

/-- A 16-bit operation that writes its result and C, Z, S, OV, HC. -/
def State.writeArithEr (s : State) (n : Reg) (x : Alu 16) : State := (s.setEr n x.val).setPsw (putArith s.psw x)

/-- A 16-bit operation that writes its result, Z and S. -/
def State.writeLogicEr (s : State) (n : Reg) (v : Word) : State := (s.setEr n v).setPsw (putLogic s.psw v)

/-- `ADD Rn, Rm` (40_arithmetic.md R200). -/
def execAddRnRm (n m : Reg) (s : State) : Res State :=
  .next (s.writeArith n (addN (s.reg n) (s.reg m) false)).done

/-- `ADD Rn, #imm8` (40_arithmetic.md R201). -/
def execAddRnImm8 (n : Reg) (imm : BitVec 8) (s : State) : Res State :=
  .next (s.writeArith n (addN (s.reg n) imm false)).done

/-- `MOV Rn, Rm` (40_arithmetic.md R202). -/
def execMovRnRm (n m : Reg) (s : State) : Res State :=
  .next (s.writeLogic n (s.reg m)).done

/-- `MOV Rn, #imm8` (40_arithmetic.md R203). -/
def execMovRnImm8 (n : Reg) (imm : BitVec 8) (s : State) : Res State :=
  .next (s.writeLogic n imm).done

/-- `ADDC Rn, Rm` (40_arithmetic.md R204). -/
def execAddcRnRm (n m : Reg) (s : State) : Res State :=
  .next (s.writeSticky n (addN (s.reg n) (s.reg m) (flagC s.psw))).done

/-- `ADDC Rn, #imm8` (40_arithmetic.md R205). -/
def execAddcRnImm8 (n : Reg) (imm : BitVec 8) (s : State) : Res State :=
  .next (s.writeSticky n (addN (s.reg n) imm (flagC s.psw))).done

/-- `CMP Rn, Rm` (40_arithmetic.md R206). -/
def execCmpRnRm (n m : Reg) (s : State) : Res State :=
  .next (s.setPsw (putArith s.psw (subN (s.reg n) (s.reg m) false))).done

/-- `CMP Rn, #imm8` (40_arithmetic.md R207). -/
def execCmpRnImm8 (n : Reg) (imm : BitVec 8) (s : State) : Res State :=
  .next (s.setPsw (putArith s.psw (subN (s.reg n) imm false))).done

/-- `CMPC Rn, Rm` (40_arithmetic.md R208). -/
def execCmpcRnRm (n m : Reg) (s : State) : Res State :=
  .next (s.setPsw (putArithSticky s.psw (subN (s.reg n) (s.reg m) (flagC s.psw)))).done

/-- `CMPC Rn, #imm8` (40_arithmetic.md R209). -/
def execCmpcRnImm8 (n : Reg) (imm : BitVec 8) (s : State) : Res State :=
  .next (s.setPsw (putArithSticky s.psw (subN (s.reg n) imm (flagC s.psw)))).done

/-- `AND Rn, Rm` (40_arithmetic.md R210). -/
def execAndRnRm (n m : Reg) (s : State) : Res State :=
  .next (s.writeLogic n (s.reg n &&& s.reg m)).done

/-- `AND Rn, #imm8` (40_arithmetic.md R211). -/
def execAndRnImm8 (n : Reg) (imm : BitVec 8) (s : State) : Res State :=
  .next (s.writeLogic n (s.reg n &&& imm)).done

/-- `OR Rn, Rm` (40_arithmetic.md R212). -/
def execOrRnRm (n m : Reg) (s : State) : Res State :=
  .next (s.writeLogic n (s.reg n ||| s.reg m)).done

/-- `OR Rn, #imm8` (40_arithmetic.md R213). -/
def execOrRnImm8 (n : Reg) (imm : BitVec 8) (s : State) : Res State :=
  .next (s.writeLogic n (s.reg n ||| imm)).done

/-- `XOR Rn, Rm` (40_arithmetic.md R214). -/
def execXorRnRm (n m : Reg) (s : State) : Res State :=
  .next (s.writeLogic n (s.reg n ^^^ s.reg m)).done

/-- `XOR Rn, #imm8` (40_arithmetic.md R215). -/
def execXorRnImm8 (n : Reg) (imm : BitVec 8) (s : State) : Res State :=
  .next (s.writeLogic n (s.reg n ^^^ imm)).done

/-- `SUB Rn, Rm` (40_arithmetic.md R216). -/
def execSubRnRm (n m : Reg) (s : State) : Res State :=
  .next (s.writeArith n (subN (s.reg n) (s.reg m) false)).done

/-- `SUBC Rn, Rm` (40_arithmetic.md R217). -/
def execSubcRnRm (n m : Reg) (s : State) : Res State :=
  .next (s.writeSticky n (subN (s.reg n) (s.reg m) (flagC s.psw))).done

/-- `MOV ERn, ERm` (40_arithmetic.md R218). -/
def execMovErnErm (n m : Reg) (s : State) : Res State :=
  .next (s.writeLogicEr n (s.er m)).done

/-- `MOV ERn, #imm7` (40_arithmetic.md R219). -/
def execMovErnImm7 (n : Reg) (imm : BitVec 7) (s : State) : Res State :=
  .next (s.writeLogicEr n (imm7Value imm)).done

/-- `ADD ERn, ERm` (40_arithmetic.md R220). -/
def execAddErnErm (n m : Reg) (s : State) : Res State :=
  .next (s.writeArithEr n (addN (s.er n) (s.er m) false)).done

/-- `ADD ERn, #imm7` (40_arithmetic.md R221). -/
def execAddErnImm7 (n : Reg) (imm : BitVec 7) (s : State) : Res State :=
  .next (s.writeArithEr n (addN (s.er n) (imm7Value imm) false)).done

/-- `CMP ERn, ERm` (40_arithmetic.md R222). -/
def execCmpErnErm (n m : Reg) (s : State) : Res State :=
  .next (s.setPsw (putArith s.psw (subN (s.er n) (s.er m) false))).done

end Sys2Proof.Machine
end

