-- ==== Sys2Proof/Machine/BitPsw.lean ====
section
/-! DEFINITION. Bit access and single PSW bits (47_bit_psw.md). -/
namespace Sys2Proof.Machine

/-- Z becomes the inverse of bit `bit` of `v` (R420 to R425). -/
def State.testBit (s : State) (v : Byte) (bit : BitVec 3) : State := s.setPsw (putZ s.psw (!v.getLsbD bit.toNat))

/-- EI (R426): MIE is 1 at once; where it was 0, the window of 70_reset_and_hazards.md R576 opens (log 11). -/
def State.enableInterrupts (s : State) : State :=
  let t := (s.setPsw (putMIE s.psw true)).done
  if flagMIE s.psw then t else { t with eiWindow := 2 }

/-- DI (R427): MIE is 0 and no window is open after it (70_reset_and_hazards.md R577, log 12). -/
def State.disableInterrupts (s : State) : State := { (s.setPsw (putMIE s.psw false)).done with mieWindow := 0 }

/-- `SB Rn.bit_offset` (47_bit_psw.md R420). -/
def execSbRnBit (n : Reg) (bit : BitVec 3) (s : State) : Res State :=
  .next ((s.testBit (s.reg n) bit).setReg n (putBit (s.reg n) bit.toNat true)).done

/-- `SB Dbitadr` (47_bit_psw.md R421). -/
def execSbDbitadr (bit : BitVec 3) (dadr : Word) (s : State) : Res State :=
  andThen (s.readByte s.dseg dadr) fun p =>
    andThen (p.2.writeMem s.dseg dadr [putBit p.1 bit.toNat true]) fun t => .next (t.testBit p.1 bit).done2

/-- `RB Rn.bit_offset` (47_bit_psw.md R422). -/
def execRbRnBit (n : Reg) (bit : BitVec 3) (s : State) : Res State :=
  .next ((s.testBit (s.reg n) bit).setReg n (putBit (s.reg n) bit.toNat false)).done

/-- `RB Dbitadr` (47_bit_psw.md R423). -/
def execRbDbitadr (bit : BitVec 3) (dadr : Word) (s : State) : Res State :=
  andThen (s.readByte s.dseg dadr) fun p =>
    andThen (p.2.writeMem s.dseg dadr [putBit p.1 bit.toNat false]) fun t => .next (t.testBit p.1 bit).done2

/-- `TB Rn.bit_offset` (47_bit_psw.md R424). -/
def execTbRnBit (n : Reg) (bit : BitVec 3) (s : State) : Res State :=
  .next (s.testBit (s.reg n) bit).done

/-- `TB Dbitadr` (47_bit_psw.md R425). -/
def execTbDbitadr (bit : BitVec 3) (dadr : Word) (s : State) : Res State :=
  andThen (s.readByte s.dseg dadr) fun p => .next ((p.2.latchAr dadr).testBit p.1 bit).done2

/-- `EI` (47_bit_psw.md R426). -/
def execEi (s : State) : Res State :=
  .next s.enableInterrupts

/-- `DI` (47_bit_psw.md R427). -/
def execDi (s : State) : Res State :=
  .next s.disableInterrupts

/-- `SC` (47_bit_psw.md R428). -/
def execSc (s : State) : Res State :=
  .next (s.setPsw (putC s.psw true)).done

/-- `RC` (47_bit_psw.md R429). -/
def execRc (s : State) : Res State :=
  .next (s.setPsw (putC s.psw false)).done

/-- `CPLC` (47_bit_psw.md R430). -/
def execCplc (s : State) : Res State :=
  .next (s.setPsw (putC s.psw (!flagC s.psw))).done

end Sys2Proof.Machine
end

