-- ==== Sys2Proof/Machine/Branch.lean ====
section
/-! DEFINITION. Branches, calls, returns, SWI and BRK (48_branch.md). -/
namespace Sys2Proof.Machine

/-- A conditional relative branch: to the target where the condition holds, else to NextPC (R440). -/
def State.branchIf (s : State) (c : Bool) (disp : BitVec 8) : State := if c then s.finish (s.relTarget disp) else s.done

/-- The state, where the segment of a far branch exists: in the SMALL model only 0 does, any other is
`UNDEFINED(segment outside SMALL model)` (10_state.md R68, R456). -/
def State.needSegment (s : State) (g : CodeSeg) : Res State :=
  if !s.isLarge && g != 0 then .refused .segmentOutsideSmall else .next s

/-- LR and LCSR receive the address of the next instruction (R458). -/
def State.link (s : State) (next : Word) : State := (s.setLr next).setLcsr s.csr

/-- `BGE Radr` (48_branch.md R441). -/
def execBgeRadr (disp : BitVec 8) (s : State) : Res State :=
  .next (s.branchIf (!flagC s.psw) disp)

/-- `BLT Radr` (48_branch.md R442). -/
def execBltRadr (disp : BitVec 8) (s : State) : Res State :=
  .next (s.branchIf (flagC s.psw) disp)

/-- `BGT Radr` (48_branch.md R443). -/
def execBgtRadr (disp : BitVec 8) (s : State) : Res State :=
  .next (s.branchIf (!flagC s.psw && !flagZ s.psw) disp)

/-- `BLE Radr` (48_branch.md R444). -/
def execBleRadr (disp : BitVec 8) (s : State) : Res State :=
  .next (s.branchIf (flagZ s.psw || flagC s.psw) disp)

/-- `BGES Radr` (48_branch.md R445). -/
def execBgesRadr (disp : BitVec 8) (s : State) : Res State :=
  .next (s.branchIf (!(flagOV s.psw ^^ flagS s.psw)) disp)

/-- `BLTS Radr` (48_branch.md R446). -/
def execBltsRadr (disp : BitVec 8) (s : State) : Res State :=
  .next (s.branchIf (flagOV s.psw ^^ flagS s.psw) disp)

/-- `BGTS Radr` (48_branch.md R447). -/
def execBgtsRadr (disp : BitVec 8) (s : State) : Res State :=
  .next (s.branchIf (!((flagOV s.psw ^^ flagS s.psw) || flagZ s.psw)) disp)

/-- `BLES Radr` (48_branch.md R448). -/
def execBlesRadr (disp : BitVec 8) (s : State) : Res State :=
  .next (s.branchIf ((flagOV s.psw ^^ flagS s.psw) || flagZ s.psw) disp)

/-- `BNE Radr` (48_branch.md R449). -/
def execBneRadr (disp : BitVec 8) (s : State) : Res State :=
  .next (s.branchIf (!flagZ s.psw) disp)

/-- `BEQ Radr` (48_branch.md R450). -/
def execBeqRadr (disp : BitVec 8) (s : State) : Res State :=
  .next (s.branchIf (flagZ s.psw) disp)

/-- `BNV Radr` (48_branch.md R451). -/
def execBnvRadr (disp : BitVec 8) (s : State) : Res State :=
  .next (s.branchIf (!flagOV s.psw) disp)

/-- `BOV Radr` (48_branch.md R452). -/
def execBovRadr (disp : BitVec 8) (s : State) : Res State :=
  .next (s.branchIf (flagOV s.psw) disp)

/-- `BPS Radr` (48_branch.md R453). -/
def execBpsRadr (disp : BitVec 8) (s : State) : Res State :=
  .next (s.branchIf (!flagS s.psw) disp)

/-- `BNS Radr` (48_branch.md R454). -/
def execBnsRadr (disp : BitVec 8) (s : State) : Res State :=
  .next (s.branchIf (flagS s.psw) disp)

/-- `BAL Radr` (48_branch.md R455). -/
def execBalRadr (disp : BitVec 8) (s : State) : Res State :=
  .next (s.branchIf true disp)

/-- `B Cadr` (48_branch.md R456). -/
def execBCadr (g : BitVec 4) (cadr : Word) (s : State) : Res State :=
  andThen (s.needSegment g) fun s0 => .next ((s0.setCsr g).finish cadr)

/-- `B ERn` (48_branch.md R457). -/
def execBErn (n : Reg) (s : State) : Res State :=
  .next (s.finish (s.er n))

/-- `BL Cadr` (48_branch.md R458). -/
def execBlCadr (g : BitVec 4) (cadr : Word) (s : State) : Res State :=
  andThen (s.needSegment g) fun s0 => .next (((s0.link s0.nextPc2).setCsr g).finish cadr)

/-- `BL ERn` (48_branch.md R459). -/
def execBlErn (n : Reg) (s : State) : Res State :=
  .next ((s.link s.nextPc).finish (s.er n))

/-- `RT` (48_branch.md R460). -/
def execRt (s : State) : Res State :=
  .next ((s.setCsr (s.segRead s.lcsr)).finish s.lr)

/-- `RTI` (48_branch.md R461). -/
def execRti (s : State) : Res State :=
  s.returnFromInterrupt

/-- `SWI #snum` (48_branch.md R462). -/
def execSwiSnum (snum : BitVec 6) (s : State) : Res State :=
  s.enter 1#2 (0x0080#16 + 2#16 * snum.zeroExtend 16) s.nextPc true s.psw

/-- `BRK` (48_branch.md R463). -/
def execBrk (s : State) : Res State :=
  if 2 ≤ s.useLevel.toNat then s.resetSequence else s.enter 2#2 0x0004#16 s.nextPc false s.psw

end Sys2Proof.Machine
end

