-- ==== Sys2Proof/Machine/ControlReg.lean ====
section
/-! DEFINITION. Moves to and from control registers (43_control_register.md). -/
namespace Sys2Proof.Machine

/-- MOV PSW (R326): PSW changes at once. Clearing MIE opens the window of 70_reset_and_hazards.md R577; changing
ELEVEL draws, old or new, the level of the next boundary and instruction (R578, log 13). -/
def State.movPsw (s : State) (v : Byte) : State :=
  let t := (s.setPsw v).done
  let t1 := if flagMIE s.psw && !flagMIE v then { t with mieWindow := 2 } else t
  if elevelOf v = s.elevel then t1
  else { t1.drawn 1 with levelView := some (if Config.freeBit s.draws then s.elevel else elevelOf v) }

/-- `ADD SP, #signed8` (43_control_register.md R320). -/
def execAddSpSigned8 (imm : BitVec 8) (s : State) : Res State :=
  .next (s.setSp (s.sp + signed8Value imm)).done

/-- `MOV ECSR, Rm` (43_control_register.md R321). -/
def execMovEcsrRm (m : Reg) (s : State) : Res State :=
  andThen (s.needLevel s.useLevel) fun s0 =>
    .next (s0.setEcsr s0.useLevel ((s0.reg m).extractLsb' 0 4)).done

/-- `MOV ELR, ERm` (43_control_register.md R322). -/
def execMovElrErm (m : Reg) (s : State) : Res State :=
  andThen (s.needLevel s.useLevel) fun s0 => .next (s0.setElr s0.useLevel (s0.er m)).done

/-- `MOV EPSW, Rm` (43_control_register.md R323). -/
def execMovEpswRm (m : Reg) (s : State) : Res State :=
  andThen (s.needLevel s.useLevel) fun s0 => .next (s0.setEpsw s0.useLevel (s0.reg m)).done

/-- `MOV ERn, ELR` (43_control_register.md R324). -/
def execMovErnElr (n : Reg) (s : State) : Res State :=
  andThen (s.needLevel s.useLevel) fun s0 => .next (s0.setEr n (s0.elr s0.useLevel)).done

/-- `MOV ERn, SP` (43_control_register.md R325). -/
def execMovErnSp (n : Reg) (s : State) : Res State :=
  .next (s.setEr n s.sp).done

/-- `MOV PSW, Rm` (43_control_register.md R326). -/
def execMovPswRm (m : Reg) (s : State) : Res State :=
  .next (s.movPsw (s.reg m))

/-- `MOV PSW, #unsigned8` (43_control_register.md R327). -/
def execMovPswUnsigned8 (imm : BitVec 8) (s : State) : Res State :=
  .next (s.movPsw imm)

/-- `MOV Rn, ECSR` (43_control_register.md R328). -/
def execMovRnEcsr (n : Reg) (s : State) : Res State :=
  andThen (s.needLevel s.useLevel) fun s0 =>
    .next (s0.setReg n ((s0.ecsr s0.useLevel).zeroExtend 8)).done

/-- `MOV Rn, EPSW` (43_control_register.md R329). -/
def execMovRnEpsw (n : Reg) (s : State) : Res State :=
  andThen (s.needLevel s.useLevel) fun s0 =>
    match s0.epsw s0.useLevel with
    | none => .next s0.done
    | some p => .next (s0.setReg n p).done

/-- `MOV Rn, PSW` (43_control_register.md R330). -/
def execMovRnPsw (n : Reg) (s : State) : Res State :=
  .next (s.setReg n s.psw).done

/-- `MOV SP, ERm` (43_control_register.md R331). -/
def execMovSpErm (m : Reg) (s : State) : Res State :=
  .next (s.setSp (s.er m)).done

end Sys2Proof.Machine
end

