-- ==== Sys2Proof/Machine/Coproc.lean ====
section
/-! DEFINITION. Coprocessor transfers (45_coprocessor.md). -/
namespace Sys2Proof.Machine

/-- `MOV CRn, Rm` (45_coprocessor.md R370). -/
def execMovCrnRm (n m : Reg) (s : State) : Res State :=
  andThen s.needCoprocessor fun s0 => .next (s0.setCreg n (s0.reg m)).done

/-- `MOV CRn, [EA]` (45_coprocessor.md R371). -/
def execMovCrnEa (n : Reg) (s : State) : Res State :=
  andThen (s.loadCregs n 1) fun t => .next t.done

/-- `MOV CRn, [EA+]` (45_coprocessor.md R372). -/
def execMovCrnEaInc (n : Reg) (s : State) : Res State :=
  andThen (s.loadCregs n 1) fun t => .next (t.bumpEa 1).done

/-- `MOV CERn, [EA]` (45_coprocessor.md R373). -/
def execMovCernEa (n : Reg) (s : State) : Res State :=
  andThen (s.loadCregs n 2) fun t => .next t.done

/-- `MOV CERn, [EA+]` (45_coprocessor.md R374). -/
def execMovCernEaInc (n : Reg) (s : State) : Res State :=
  andThen (s.loadCregs n 2) fun t => .next (t.bumpEa 2).done

/-- `MOV CXRn, [EA]` (45_coprocessor.md R375). -/
def execMovCxrnEa (n : Reg) (s : State) : Res State :=
  andThen (s.loadCregs n 4) fun t => .next t.done

/-- `MOV CXRn, [EA+]` (45_coprocessor.md R376). -/
def execMovCxrnEaInc (n : Reg) (s : State) : Res State :=
  andThen (s.loadCregs n 4) fun t => .next (t.bumpEa 4).done

/-- `MOV CQRn, [EA]` (45_coprocessor.md R377). -/
def execMovCqrnEa (n : Reg) (s : State) : Res State :=
  andThen (s.loadCregs n 8) fun t => .next t.done

/-- `MOV CQRn, [EA+]` (45_coprocessor.md R378). -/
def execMovCqrnEaInc (n : Reg) (s : State) : Res State :=
  andThen (s.loadCregs n 8) fun t => .next (t.bumpEa 8).done

/-- `MOV Rn, CRm` (45_coprocessor.md R379). -/
def execMovRnCrm (n m : Reg) (s : State) : Res State :=
  andThen s.needCoprocessor fun s0 => .next ((s0.cregsDrawn 1).setRegs n (s0.cregs m 1)).done

/-- `MOV [EA], CRm` (45_coprocessor.md R380). -/
def execMovEaCrm (m : Reg) (s : State) : Res State :=
  andThen (s.storeCregs m 1) fun t => .next t.done

/-- `MOV [EA+], CRm` (45_coprocessor.md R381). -/
def execMovEaIncCrm (m : Reg) (s : State) : Res State :=
  andThen (s.storeCregs m 1) fun t => .next (t.bumpEa 1).done

/-- `MOV [EA], CERm` (45_coprocessor.md R382). -/
def execMovEaCerm (m : Reg) (s : State) : Res State :=
  andThen (s.storeCregs m 2) fun t => .next t.done

/-- `MOV [EA+], CERm` (45_coprocessor.md R383). -/
def execMovEaIncCerm (m : Reg) (s : State) : Res State :=
  andThen (s.storeCregs m 2) fun t => .next (t.bumpEa 2).done

/-- `MOV [EA], CXRm` (45_coprocessor.md R384). -/
def execMovEaCxrm (m : Reg) (s : State) : Res State :=
  andThen (s.storeCregs m 4) fun t => .next t.done

/-- `MOV [EA+], CXRm` (45_coprocessor.md R385). -/
def execMovEaIncCxrm (m : Reg) (s : State) : Res State :=
  andThen (s.storeCregs m 4) fun t => .next (t.bumpEa 4).done

/-- `MOV [EA], CQRm` (45_coprocessor.md R386). -/
def execMovEaCqrm (m : Reg) (s : State) : Res State :=
  andThen (s.storeCregs m 8) fun t => .next t.done

/-- `MOV [EA+], CQRm` (45_coprocessor.md R387). -/
def execMovEaIncCqrm (m : Reg) (s : State) : Res State :=
  andThen (s.storeCregs m 8) fun t => .next (t.bumpEa 8).done

end Sys2Proof.Machine
end

