-- ==== Sys2Proof/Machine/LeaAlu.lean ====
section
/-! DEFINITION. LEA, decimal adjustment, negation and sign extension (46_lea_alu.md). -/
namespace Sys2Proof.Machine

/-- The Adjustment column of the DAA table (R403): `c`, `hc` the old flags, `hi`, `lo` the nibbles of Rn. -/
def daaAdjustment (c hc : Bool) (hi lo : Nat) : Byte :=
  if c then (if !hc && decide (lo ≤ 9) then 0x60#8 else 0x66#8)
  else if hc then (if hi ≤ 9 then 0x06#8 else 0x66#8)
  else if lo ≤ 9 then (if hi ≤ 9 then 0x00#8 else 0x60#8)
  else (if hi ≤ 8 then 0x06#8 else 0x66#8)

/-- The Adjustment column of the DAS table (R404). -/
def dasAdjustment (c hc : Bool) (hi lo : Nat) : Byte :=
  if c then (if !hc && decide (lo ≤ 9) then 0x60#8 else 0x66#8)
  else if hc then (if hi ≤ 9 then 0x06#8 else 0x66#8)
  else if lo ≤ 9 then (if hi ≤ 9 then 0x00#8 else 0x60#8)
  else (if hi ≤ 9 then 0x06#8 else 0x66#8)

/-- The upper nibble of a byte as a number. -/
def hiNibble (v : Byte) : Nat := v.toNat / 16

/-- The lower nibble of a byte as a number. -/
def loNibble (v : Byte) : Nat := v.toNat % 16

/-- DAA of Rn (R403). -/
def State.adjustAdd (s : State) (n : Reg) : State :=
  let a := s.reg n
  let adj := daaAdjustment (flagC s.psw) (flagHC s.psw) (hiNibble a) (loNibble a)
  let p := putHC (putLogic s.psw (a + adj)) (decide (15 < loNibble a + loNibble adj))
  (s.setReg n (a + adj)).setPsw (putC p (decide (0x60 ≤ adj.toNat)))

/-- DAS of Rn (R404); C stays set or is set by the borrow of the adjustment (log 25). -/
def State.adjustSub (s : State) (n : Reg) : State :=
  let a := s.reg n
  let adj := dasAdjustment (flagC s.psw) (flagHC s.psw) (hiNibble a) (loNibble a)
  let p := putHC (putLogic s.psw (a - adj)) (decide (loNibble a < loNibble adj))
  (s.setReg n (a - adj)).setPsw (putC p (flagC s.psw || decide (a.toNat < adj.toNat)))

/-- EXTBW of the word register ERn: R[n+1] is filled with bit 7 of R[n]; Z and S are of R[n] (R406). -/
def State.extendByte (s : State) (n : Reg) : State :=
  (s.setReg (n + 1) (if (s.reg n).msb then 0xFF#8 else 0x00#8)).setPsw (putLogic s.psw (s.reg n))

/-- `LEA [ERm]` (46_lea_alu.md R400). -/
def execLeaErm (m : Reg) (s : State) : Res State :=
  .next (s.setEa (s.offErm m)).done

/-- `LEA Disp16[ERm]` (46_lea_alu.md R401). -/
def execLeaDisp16Erm (m : Reg) (disp : Word) (s : State) : Res State :=
  .next (s.setEa (s.offDisp16 m disp)).done2

/-- `LEA Dadr` (46_lea_alu.md R402). -/
def execLeaDadr (dadr : Word) (s : State) : Res State :=
  .next (s.setEa dadr).done2

/-- `DAA Rn` (46_lea_alu.md R403). -/
def execDaaRn (n : Reg) (s : State) : Res State :=
  .next (s.adjustAdd n).done

/-- `DAS Rn` (46_lea_alu.md R404). -/
def execDasRn (n : Reg) (s : State) : Res State :=
  .next (s.adjustSub n).done

/-- `NEG Rn` (46_lea_alu.md R405). -/
def execNegRn (n : Reg) (s : State) : Res State :=
  .next (s.writeArith n (subN 0 (s.reg n) false)).done

/-- `EXTBW ER0` (46_lea_alu.md R406). -/
def execExtbwEr0 (s : State) : Res State :=
  .next (s.extendByte 0#4).done

/-- `EXTBW ER2` (46_lea_alu.md R406). -/
def execExtbwEr2 (s : State) : Res State :=
  .next (s.extendByte 2#4).done

/-- `EXTBW ER4` (46_lea_alu.md R406). -/
def execExtbwEr4 (s : State) : Res State :=
  .next (s.extendByte 4#4).done

/-- `EXTBW ER6` (46_lea_alu.md R406). -/
def execExtbwEr6 (s : State) : Res State :=
  .next (s.extendByte 6#4).done

/-- `EXTBW ER8` (46_lea_alu.md R406). -/
def execExtbwEr8 (s : State) : Res State :=
  .next (s.extendByte 8#4).done

/-- `EXTBW ER10` (46_lea_alu.md R406). -/
def execExtbwEr10 (s : State) : Res State :=
  .next (s.extendByte 10#4).done

/-- `EXTBW ER12` (46_lea_alu.md R406). -/
def execExtbwEr12 (s : State) : Res State :=
  .next (s.extendByte 12#4).done

/-- `EXTBW ER14` (46_lea_alu.md R406). -/
def execExtbwEr14 (s : State) : Res State :=
  .next (s.extendByte 14#4).done

end Sys2Proof.Machine
end

