-- ==== Sys2Proof/Machine/LoadStore.lean ====
section
/-! DEFINITION. DSR prefix words, loads and stores (42_load_store.md). -/
namespace Sys2Proof.Machine

/-- A DSR prefix word: DSR receives the segment, PFX and the IBLOCK of R260 and 10_state.md R78 are set (R260 to
R262, 20_memory.md R121), and the IBLOCK of 60_exceptions.md R506 is clear as after any instruction (log 28). After
another prefix word it is `UNDEFINED(prefix after prefix)` (20_memory.md R124). -/
def State.prefixWord (s : State) (seg : Byte) : Res State :=
  if s.pfx then .refused .prefixAfterPrefix
  else .next { (s.setDsr seg).done with pfx := true, iblock := true }

/-- `DSR prefix: pseg_addr (#imm8)` (42_load_store.md R260). -/
def execDsrPrefixImm8 (imm : BitVec 8) (s : State) : Res State :=
  s.prefixWord imm

/-- `DSR prefix: Rd` (42_load_store.md R261). -/
def execDsrPrefixRd (d : Reg) (s : State) : Res State :=
  s.prefixWord (s.reg d)

/-- `DSR prefix: DSR` (42_load_store.md R262). -/
def execDsrPrefixDsr (s : State) : Res State :=
  s.prefixWord s.dsr

/-- `L Rn, [EA]` (42_load_store.md R264). -/
def execLRnEa (n : Reg) (s : State) : Res State :=
  andThen (s.loadRegs s.offEa n 1) fun t => .next t.done

/-- `L Rn, [EA+]` (42_load_store.md R265). -/
def execLRnEaInc (n : Reg) (s : State) : Res State :=
  andThen (s.loadRegs s.offEa n 1) fun t => .next (t.bumpEa 1).done

/-- `L Rn, [ERm]` (42_load_store.md R266). -/
def execLRnErm (n m : Reg) (s : State) : Res State :=
  andThen (s.loadRegs (s.offErm m) n 1) fun t => .next t.done

/-- `L Rn, Disp16[ERm]` (42_load_store.md R267). -/
def execLRnDisp16Erm (n m : Reg) (disp : Word) (s : State) : Res State :=
  andThen (s.loadRegs (s.offDisp16 m disp) n 1) fun t => .next t.done2

/-- `L Rn, Disp6[BP]` (42_load_store.md R268). -/
def execLRnDisp6Bp (n : Reg) (disp : BitVec 6) (s : State) : Res State :=
  andThen (s.loadRegs (s.offBp disp) n 1) fun t => .next t.done

/-- `L Rn, Disp6[FP]` (42_load_store.md R269). -/
def execLRnDisp6Fp (n : Reg) (disp : BitVec 6) (s : State) : Res State :=
  andThen (s.loadRegs (s.offFp disp) n 1) fun t => .next t.done

/-- `L Rn, Dadr` (42_load_store.md R270). -/
def execLRnDadr (n : Reg) (dadr : Word) (s : State) : Res State :=
  andThen (s.loadRegs dadr n 1) fun t => .next t.done2

/-- `L ERn, [EA]` (42_load_store.md R271). -/
def execLErnEa (n : Reg) (s : State) : Res State :=
  andThen (s.loadRegs s.offEa n 2) fun t => .next t.done

/-- `L ERn, [EA+]` (42_load_store.md R272). -/
def execLErnEaInc (n : Reg) (s : State) : Res State :=
  andThen (s.loadRegs s.offEa n 2) fun t => .next (t.bumpEa 2).done

/-- `L ERn, [ERm]` (42_load_store.md R273). -/
def execLErnErm (n m : Reg) (s : State) : Res State :=
  andThen (s.loadRegs (s.offErm m) n 2) fun t => .next t.done

/-- `L ERn, Disp16[ERm]` (42_load_store.md R274). -/
def execLErnDisp16Erm (n m : Reg) (disp : Word) (s : State) : Res State :=
  andThen (s.loadRegs (s.offDisp16 m disp) n 2) fun t => .next t.done2

/-- `L ERn, Disp6[BP]` (42_load_store.md R275). -/
def execLErnDisp6Bp (n : Reg) (disp : BitVec 6) (s : State) : Res State :=
  andThen (s.loadRegs (s.offBp disp) n 2) fun t => .next t.done

/-- `L ERn, Disp6[FP]` (42_load_store.md R276). -/
def execLErnDisp6Fp (n : Reg) (disp : BitVec 6) (s : State) : Res State :=
  andThen (s.loadRegs (s.offFp disp) n 2) fun t => .next t.done

/-- `L ERn, Dadr` (42_load_store.md R277). -/
def execLErnDadr (n : Reg) (dadr : Word) (s : State) : Res State :=
  andThen (s.loadRegs dadr n 2) fun t => .next t.done2

/-- `L XRn, [EA]` (42_load_store.md R278). -/
def execLXrnEa (n : Reg) (s : State) : Res State :=
  andThen (s.loadRegs s.offEa n 4) fun t => .next t.done

/-- `L XRn, [EA+]` (42_load_store.md R279). -/
def execLXrnEaInc (n : Reg) (s : State) : Res State :=
  andThen (s.loadRegs s.offEa n 4) fun t => .next (t.bumpEa 4).done

/-- `L QRn, [EA]` (42_load_store.md R280). -/
def execLQrnEa (n : Reg) (s : State) : Res State :=
  andThen (s.loadRegs s.offEa n 8) fun t => .next t.done

/-- `L QRn, [EA+]` (42_load_store.md R281). -/
def execLQrnEaInc (n : Reg) (s : State) : Res State :=
  andThen (s.loadRegs s.offEa n 8) fun t => .next (t.bumpEa 8).done

/-- `ST Rn, [EA]` (42_load_store.md R282). -/
def execStRnEa (n : Reg) (s : State) : Res State :=
  andThen (s.storeRegs s.offEa n 1) fun t => .next t.done

/-- `ST Rn, [EA+]` (42_load_store.md R283). -/
def execStRnEaInc (n : Reg) (s : State) : Res State :=
  andThen (s.storeRegs s.offEa n 1) fun t => .next (t.bumpEa 1).done

/-- `ST Rn, [ERm]` (42_load_store.md R284). -/
def execStRnErm (n m : Reg) (s : State) : Res State :=
  andThen (s.storeRegs (s.offErm m) n 1) fun t => .next t.done

/-- `ST Rn, Disp16[ERm]` (42_load_store.md R285). -/
def execStRnDisp16Erm (n m : Reg) (disp : Word) (s : State) : Res State :=
  andThen (s.storeRegs (s.offDisp16 m disp) n 1) fun t => .next t.done2

/-- `ST Rn, Disp6[BP]` (42_load_store.md R286). -/
def execStRnDisp6Bp (n : Reg) (disp : BitVec 6) (s : State) : Res State :=
  andThen (s.storeRegs (s.offBp disp) n 1) fun t => .next t.done

/-- `ST Rn, Disp6[FP]` (42_load_store.md R287). -/
def execStRnDisp6Fp (n : Reg) (disp : BitVec 6) (s : State) : Res State :=
  andThen (s.storeRegs (s.offFp disp) n 1) fun t => .next t.done

/-- `ST Rn, Dadr` (42_load_store.md R288). -/
def execStRnDadr (n : Reg) (dadr : Word) (s : State) : Res State :=
  andThen (s.storeRegs dadr n 1) fun t => .next t.done2

/-- `ST ERn, [EA]` (42_load_store.md R289). -/
def execStErnEa (n : Reg) (s : State) : Res State :=
  andThen (s.storeRegs s.offEa n 2) fun t => .next t.done

/-- `ST ERn, [EA+]` (42_load_store.md R290). -/
def execStErnEaInc (n : Reg) (s : State) : Res State :=
  andThen (s.storeRegs s.offEa n 2) fun t => .next (t.bumpEa 2).done

/-- `ST ERn, [ERm]` (42_load_store.md R291). -/
def execStErnErm (n m : Reg) (s : State) : Res State :=
  andThen (s.storeRegs (s.offErm m) n 2) fun t => .next t.done

/-- `ST ERn, Disp16[ERm]` (42_load_store.md R292). -/
def execStErnDisp16Erm (n m : Reg) (disp : Word) (s : State) : Res State :=
  andThen (s.storeRegs (s.offDisp16 m disp) n 2) fun t => .next t.done2

/-- `ST ERn, Disp6[BP]` (42_load_store.md R293). -/
def execStErnDisp6Bp (n : Reg) (disp : BitVec 6) (s : State) : Res State :=
  andThen (s.storeRegs (s.offBp disp) n 2) fun t => .next t.done

/-- `ST ERn, Disp6[FP]` (42_load_store.md R294). -/
def execStErnDisp6Fp (n : Reg) (disp : BitVec 6) (s : State) : Res State :=
  andThen (s.storeRegs (s.offFp disp) n 2) fun t => .next t.done

/-- `ST ERn, Dadr` (42_load_store.md R295). -/
def execStErnDadr (n : Reg) (dadr : Word) (s : State) : Res State :=
  andThen (s.storeRegs dadr n 2) fun t => .next t.done2

/-- `ST XRn, [EA]` (42_load_store.md R296). -/
def execStXrnEa (n : Reg) (s : State) : Res State :=
  andThen (s.storeRegs s.offEa n 4) fun t => .next t.done

/-- `ST XRn, [EA+]` (42_load_store.md R297). -/
def execStXrnEaInc (n : Reg) (s : State) : Res State :=
  andThen (s.storeRegs s.offEa n 4) fun t => .next (t.bumpEa 4).done

/-- `ST QRn, [EA]` (42_load_store.md R298). -/
def execStQrnEa (n : Reg) (s : State) : Res State :=
  andThen (s.storeRegs s.offEa n 8) fun t => .next t.done

/-- `ST QRn, [EA+]` (42_load_store.md R299). -/
def execStQrnEaInc (n : Reg) (s : State) : Res State :=
  andThen (s.storeRegs s.offEa n 8) fun t => .next (t.bumpEa 8).done

end Sys2Proof.Machine
end

