-- ==== Sys2Proof/Machine/MulDiv.lean ====
section
/-! DEFINITION. Multiplication, division, memory increment and decrement, NOP (49_muldiv_misc.md). -/
namespace Sys2Proof.Machine

/-- MUL: the unsigned product of Rn and Rm in ERn, Z (R480, log 22). -/
def State.multiply (s : State) (n m : Reg) : State :=
  let p : Word := (s.reg n).zeroExtend 16 * (s.reg m).zeroExtend 16
  (s.setEr n p).setPsw (putZ s.psw (p == 0))

/-- DIV: the unsigned quotient in ERn, the remainder in Rm, C and Z; for a zero divisor C is 1 and both registers and Z
are free values (R481, log 22, log 23). -/
def State.divide (s : State) (n m : Reg) : State :=
  let a := s.er n
  let d := s.reg m
  if d = 0 then
    (((s.drawn 1).setEr n (Config.freeWord s.draws)).setReg m (Config.freeByte s.draws)).setPsw
      (putC (putZ s.psw (Config.freeBit s.draws)) true)
  else
    let q := BitVec.ofNat 16 (a.toNat / d.toNat)
    ((s.setEr n q).setReg m (BitVec.ofNat 8 (a.toNat % d.toNat))).setPsw (putC (putZ s.psw (q == 0)) false)

/-- `MUL ERn, Rm` (49_muldiv_misc.md R480). -/
def execMulErnRm (n m : Reg) (s : State) : Res State :=
  .next (s.multiply n m).done

/-- `DIV ERn, Rm` (49_muldiv_misc.md R481). -/
def execDivErnRm (n m : Reg) (s : State) : Res State :=
  if m = n ∨ m = n + 1 then .refused .divisorInsideDividend else .next (s.divide n m).done

/-- `INC [EA]` (49_muldiv_misc.md R482). -/
def execIncEa (s : State) : Res State :=
  andThen (s.readByte s.dseg s.offEa) fun p =>
    andThen (p.2.writeMem s.dseg s.offEa [(addN p.1 1 false).val]) fun t =>
      .next (t.setPsw (putZSOVHC t.psw (addN p.1 1 false))).done

/-- `DEC [EA]` (49_muldiv_misc.md R483). -/
def execDecEa (s : State) : Res State :=
  andThen (s.readByte s.dseg s.offEa) fun p =>
    andThen (p.2.writeMem s.dseg s.offEa [(subN p.1 1 false).val]) fun t =>
      .next (t.setPsw (putZSOVHC t.psw (subN p.1 1 false))).done

/-- `NOP` (49_muldiv_misc.md R484). -/
def execNop (s : State) : Res State :=
  .next s.done

end Sys2Proof.Machine
end

