-- ==== Sys2Proof/Machine/Shift.lean ====
section
/-! DEFINITION. Shifts (41_shift.md). -/
namespace Sys2Proof.Machine

/-- A shift of Rn by `k` places: for k = 0 nothing changes, otherwise Rn becomes `v` and C the bit `c` (R240). -/
def State.shiftWrite (s : State) (n : Reg) (k : Nat) (v : Byte) (c : Bool) : State :=
  if k = 0 then s else (s.setReg n v).setPsw (putC s.psw c)

/-- SLL by `k` places (R240). -/
def State.shiftSll (s : State) (n : Reg) (k : Nat) : State :=
  s.shiftWrite n k (s.reg n <<< k) ((s.reg n).getLsbD (8 - k))

/-- SLLC by `k` places: the register below, R15 below R0, gives the low byte (R242). -/
def State.shiftSllc (s : State) (n : Reg) (k : Nat) : State :=
  let v : Word := s.reg n ++ s.reg (n - 1)
  s.shiftWrite n k ((v <<< k).extractLsb' 8 8) (v.getLsbD (16 - k))

/-- SRA by `k` places (R244). -/
def State.shiftSra (s : State) (n : Reg) (k : Nat) : State :=
  s.shiftWrite n k ((s.reg n).sshiftRight k) ((s.reg n).getLsbD (k - 1))

/-- SRL by `k` places (R246). -/
def State.shiftSrl (s : State) (n : Reg) (k : Nat) : State :=
  s.shiftWrite n k (s.reg n >>> k) ((s.reg n).getLsbD (k - 1))

/-- SRLC by `k` places: the register above, R0 above R15, gives the high byte (R248). -/
def State.shiftSrlc (s : State) (n : Reg) (k : Nat) : State :=
  let v : Word := s.reg (n + 1) ++ s.reg n
  s.shiftWrite n k ((v >>> k).extractLsb' 0 8) (v.getLsbD (k - 1))

/-- `SLL Rn, Rm` (41_shift.md R240). -/
def execSllRnRm (n m : Reg) (s : State) : Res State :=
  .next (s.shiftSll n (shiftSize (s.reg m))).done

/-- `SLL Rn, #width` (41_shift.md R241). -/
def execSllRnWidth (n : Reg) (width : BitVec 3) (s : State) : Res State :=
  .next (s.shiftSll n width.toNat).done

/-- `SLLC Rn, Rm` (41_shift.md R242). -/
def execSllcRnRm (n m : Reg) (s : State) : Res State :=
  .next (s.shiftSllc n (shiftSize (s.reg m))).done

/-- `SLLC Rn, #width` (41_shift.md R243). -/
def execSllcRnWidth (n : Reg) (width : BitVec 3) (s : State) : Res State :=
  .next (s.shiftSllc n width.toNat).done

/-- `SRA Rn, Rm` (41_shift.md R244). -/
def execSraRnRm (n m : Reg) (s : State) : Res State :=
  .next (s.shiftSra n (shiftSize (s.reg m))).done

/-- `SRA Rn, #width` (41_shift.md R245). -/
def execSraRnWidth (n : Reg) (width : BitVec 3) (s : State) : Res State :=
  .next (s.shiftSra n width.toNat).done

/-- `SRL Rn, Rm` (41_shift.md R246). -/
def execSrlRnRm (n m : Reg) (s : State) : Res State :=
  .next (s.shiftSrl n (shiftSize (s.reg m))).done

/-- `SRL Rn, #width` (41_shift.md R247). -/
def execSrlRnWidth (n : Reg) (width : BitVec 3) (s : State) : Res State :=
  .next (s.shiftSrl n width.toNat).done

/-- `SRLC Rn, Rm` (41_shift.md R248). -/
def execSrlcRnRm (n m : Reg) (s : State) : Res State :=
  .next (s.shiftSrlc n (shiftSize (s.reg m))).done

/-- `SRLC Rn, #width` (41_shift.md R249). -/
def execSrlcRnWidth (n : Reg) (width : BitVec 3) (s : State) : Res State :=
  .next (s.shiftSrlc n width.toNat).done

end Sys2Proof.Machine
end

