-- ==== Sys2Proof/Machine/Stack.lean ====
section
/-! DEFINITION. PUSH and POP (44_push_pop.md). -/
namespace Sys2Proof.Machine

/-- The ELR item of PUSH: ELR and, in the LARGE model, ECSR of the current level; at level 0 LR and LCSR (R344,
R350). -/
def State.pushElrItem (s : State) : Res State :=
  andThen (s.needLevel s.useLevel) fun s0 => s0.pushReturn (s0.ecsr s0.useLevel) (s0.elr s0.useLevel)

/-- The EPSW item of PUSH: a dummy byte and EPSW of the current level; at level 0 two free bytes (R344, R350). -/
def State.pushEpswItem (s : State) : Res State :=
  andThen (s.needLevel s.useLevel) fun s0 =>
    andThen s0.pushFree fun s1 =>
      match s0.epsw s0.useLevel with
      | none => s1.pushFree
      | some p => s1.push8 p

/-- The LR item of PUSH: LR and, in the LARGE model, LCSR (R344). -/
def State.pushLrItem (s : State) : Res State := s.pushReturn (s.segRead s.lcsr) s.lr

/-- The EA item of PUSH (R344). -/
def State.pushEaItem (s : State) : Res State := s.pushAll [s.ea.extractLsb' 8 8, s.ea.extractLsb' 0 8]

/-- The EA item of POP (R349). -/
def State.popEaItem (s : State) : Res State :=
  andThen s.pop8 fun lo => andThen lo.2.pop8 fun hi => .next (hi.2.setEa (hi.1 ++ lo.1))

/-- The LR item of POP: LR and, in the LARGE model, LCSR (R349). -/
def State.popLrItem (s : State) : Res State :=
  andThen s.popReturn fun p => .next ((p.2.2.setLr p.1).setLcsr p.2.1)

/-- The PSW item of POP: all eight bits, then the dummy cycle (R349, R353). -/
def State.popPswItem (s : State) : Res State := andThen s.pop8 fun p => .next (p.2.skip8.setPsw p.1)

/-- The PC item of POP, the last one: PC and, in the LARGE model, CSR, and the end of the instruction (R349). -/
def State.popPcItem (s : State) : Res State :=
  andThen s.popReturn fun p => .next ((p.2.2.setCsr p.2.1).finish p.1)

/-- `PUSH Rn` (44_push_pop.md R340). -/
def execPushRn (n : Reg) (s : State) : Res State :=
  andThen s.pushFree fun s1 => andThen (s1.push8 (s1.reg n)) fun s2 => .next s2.done

/-- `PUSH ERn` (44_push_pop.md R341). -/
def execPushErn (n : Reg) (s : State) : Res State :=
  andThen (s.pushAll (s.regs n 2).reverse) fun s1 => .next s1.done

/-- `PUSH XRn` (44_push_pop.md R342). -/
def execPushXrn (n : Reg) (s : State) : Res State :=
  andThen (s.pushAll (s.regs n 4).reverse) fun s1 => .next s1.done

/-- `PUSH QRn` (44_push_pop.md R343). -/
def execPushQrn (n : Reg) (s : State) : Res State :=
  andThen (s.pushAll (s.regs n 8).reverse) fun s1 => .next s1.done

/-- `PUSH EA` (44_push_pop.md R344). -/
def execPushEa (s : State) : Res State :=
  andThen s.pushEaItem fun s1 => .next s1.done

/-- `PUSH ELR` (44_push_pop.md R344). -/
def execPushElr (s : State) : Res State :=
  andThen s.pushElrItem fun s1 => .next s1.done

/-- `PUSH EA, ELR` (44_push_pop.md R344). -/
def execPushEaElr (s : State) : Res State :=
  andThen s.pushElrItem fun s1 => andThen s1.pushEaItem fun s2 => .next s2.done

/-- `PUSH EPSW` (44_push_pop.md R344). -/
def execPushEpsw (s : State) : Res State :=
  andThen s.pushEpswItem fun s1 => .next s1.done

/-- `PUSH EA, EPSW` (44_push_pop.md R344). -/
def execPushEaEpsw (s : State) : Res State :=
  andThen s.pushEpswItem fun s1 => andThen s1.pushEaItem fun s2 => .next s2.done

/-- `PUSH ELR, EPSW` (44_push_pop.md R344). -/
def execPushElrEpsw (s : State) : Res State :=
  andThen s.pushElrItem fun s1 => andThen s1.pushEpswItem fun s2 => .next s2.done

/-- `PUSH EA, ELR, EPSW` (44_push_pop.md R344). -/
def execPushEaElrEpsw (s : State) : Res State :=
  andThen s.pushElrItem fun s1 => andThen s1.pushEpswItem fun s2 => andThen s2.pushEaItem fun s3 => .next s3.done

/-- `PUSH LR` (44_push_pop.md R344). -/
def execPushLr (s : State) : Res State :=
  andThen s.pushLrItem fun s1 => .next s1.done

/-- `PUSH EA, LR` (44_push_pop.md R344). -/
def execPushEaLr (s : State) : Res State :=
  andThen s.pushLrItem fun s1 => andThen s1.pushEaItem fun s2 => .next s2.done

/-- `PUSH ELR, LR` (44_push_pop.md R344). -/
def execPushElrLr (s : State) : Res State :=
  andThen s.pushElrItem fun s1 => andThen s1.pushLrItem fun s2 => .next s2.done

/-- `PUSH EA, ELR, LR` (44_push_pop.md R344). -/
def execPushEaElrLr (s : State) : Res State :=
  andThen s.pushElrItem fun s1 => andThen s1.pushLrItem fun s2 => andThen s2.pushEaItem fun s3 => .next s3.done

/-- `PUSH EPSW, LR` (44_push_pop.md R344). -/
def execPushEpswLr (s : State) : Res State :=
  andThen s.pushEpswItem fun s1 => andThen s1.pushLrItem fun s2 => .next s2.done

/-- `PUSH EA, EPSW, LR` (44_push_pop.md R344). -/
def execPushEaEpswLr (s : State) : Res State :=
  andThen s.pushEpswItem fun s1 => andThen s1.pushLrItem fun s2 => andThen s2.pushEaItem fun s3 => .next s3.done

/-- `PUSH ELR, EPSW, LR` (44_push_pop.md R344). -/
def execPushElrEpswLr (s : State) : Res State :=
  andThen s.pushElrItem fun s1 => andThen s1.pushEpswItem fun s2 => andThen s2.pushLrItem fun s3 => .next s3.done

/-- `PUSH EA, ELR, EPSW, LR` (44_push_pop.md R344). -/
def execPushEaElrEpswLr (s : State) : Res State :=
  andThen s.pushElrItem fun s1 => andThen s1.pushEpswItem fun s2 => andThen s2.pushLrItem fun s3 =>
    andThen s3.pushEaItem fun s4 => .next s4.done

/-- `POP Rn` (44_push_pop.md R345). -/
def execPopRn (n : Reg) (s : State) : Res State :=
  andThen s.pop8 fun p => .next ((p.2.skip8).setReg n p.1).done

/-- `POP ERn` (44_push_pop.md R346). -/
def execPopErn (n : Reg) (s : State) : Res State :=
  andThen (s.popAll 2) fun p => .next (p.2.setRegs n p.1).done

/-- `POP XRn` (44_push_pop.md R347). -/
def execPopXrn (n : Reg) (s : State) : Res State :=
  andThen (s.popAll 4) fun p => .next (p.2.setRegs n p.1).done

/-- `POP QRn` (44_push_pop.md R348). -/
def execPopQrn (n : Reg) (s : State) : Res State :=
  andThen (s.popAll 8) fun p => .next (p.2.setRegs n p.1).done

/-- `POP EA` (44_push_pop.md R349). -/
def execPopEa (s : State) : Res State :=
  andThen s.popEaItem fun s1 => .next s1.done

/-- `POP PC` (44_push_pop.md R349). -/
def execPopPc (s : State) : Res State :=
  s.popPcItem

/-- `POP EA, PC` (44_push_pop.md R349). -/
def execPopEaPc (s : State) : Res State :=
  andThen s.popEaItem fun s1 => s1.popPcItem

/-- `POP PSW` (44_push_pop.md R349). -/
def execPopPsw (s : State) : Res State :=
  andThen s.popPswItem fun s1 => .next s1.done

/-- `POP EA, PSW` (44_push_pop.md R349). -/
def execPopEaPsw (s : State) : Res State :=
  andThen s.popEaItem fun s1 => andThen s1.popPswItem fun s2 => .next s2.done

/-- `POP PC, PSW` (44_push_pop.md R349). -/
def execPopPcPsw (s : State) : Res State :=
  andThen s.popPswItem fun s1 => s1.popPcItem

/-- `POP EA, PC, PSW` (44_push_pop.md R349). -/
def execPopEaPcPsw (s : State) : Res State :=
  andThen s.popEaItem fun s1 => andThen s1.popPswItem fun s2 => s2.popPcItem

/-- `POP LR` (44_push_pop.md R349). -/
def execPopLr (s : State) : Res State :=
  andThen s.popLrItem fun s1 => .next s1.done

/-- `POP EA, LR` (44_push_pop.md R349). -/
def execPopEaLr (s : State) : Res State :=
  andThen s.popEaItem fun s1 => andThen s1.popLrItem fun s2 => .next s2.done

/-- `POP PC, LR` (44_push_pop.md R349). -/
def execPopPcLr (s : State) : Res State :=
  andThen s.popLrItem fun s1 => s1.popPcItem

/-- `POP EA, PC, LR` (44_push_pop.md R349). -/
def execPopEaPcLr (s : State) : Res State :=
  andThen s.popEaItem fun s1 => andThen s1.popLrItem fun s2 => s2.popPcItem

/-- `POP PSW, LR` (44_push_pop.md R349). -/
def execPopPswLr (s : State) : Res State :=
  andThen s.popLrItem fun s1 => andThen s1.popPswItem fun s2 => .next s2.done

/-- `POP EA, PSW, LR` (44_push_pop.md R349). -/
def execPopEaPswLr (s : State) : Res State :=
  andThen s.popEaItem fun s1 => andThen s1.popLrItem fun s2 => andThen s2.popPswItem fun s3 => .next s3.done

/-- `POP PC, PSW, LR` (44_push_pop.md R349). -/
def execPopPcPswLr (s : State) : Res State :=
  andThen s.popLrItem fun s1 => andThen s1.popPswItem fun s2 => s2.popPcItem

/-- `POP EA, PC, PSW, LR` (44_push_pop.md R349). -/
def execPopEaPcPswLr (s : State) : Res State :=
  andThen s.popEaItem fun s1 => andThen s1.popLrItem fun s2 => andThen s2.popPswItem fun s3 => s3.popPcItem

end Sys2Proof.Machine
end

