-- ==== Sys2Proof/Syntax.lean ====
section
/-! DEFINITION. The instructions: one constructor per row of spec/opcode_table.json, in the table's order. -/
namespace Sys2Proof

/-- The instructions of the nX-U8/100 core. A register operand is the 4-bit number of its lowest byte register
(30_encoding.md R164): `Sys2Proof.Instr.wf` says which numbers a word, double-word or quad-word operand may take. Each
docstring gives the row's operand form, its encoding and the rule of its meaning. -/
inductive Instr where
  /-- `ADD Rn, Rm`, 1000_nnnn_mmmm_0001, R200 -/
  | addRnRm (n m : Reg)
  /-- `ADD Rn, #imm8`, 0001_nnnn_iiii_iiii, R201 -/
  | addRnImm8 (n : Reg) (imm : BitVec 8)
  /-- `MOV Rn, Rm`, 1000_nnnn_mmmm_0000, R202 -/
  | movRnRm (n m : Reg)
  /-- `MOV Rn, #imm8`, 0000_nnnn_iiii_iiii, R203 -/
  | movRnImm8 (n : Reg) (imm : BitVec 8)
  /-- `ADDC Rn, Rm`, 1000_nnnn_mmmm_0110, R204 -/
  | addcRnRm (n m : Reg)
  /-- `ADDC Rn, #imm8`, 0110_nnnn_iiii_iiii, R205 -/
  | addcRnImm8 (n : Reg) (imm : BitVec 8)
  /-- `CMP Rn, Rm`, 1000_nnnn_mmmm_0111, R206 -/
  | cmpRnRm (n m : Reg)
  /-- `CMP Rn, #imm8`, 0111_nnnn_iiii_iiii, R207 -/
  | cmpRnImm8 (n : Reg) (imm : BitVec 8)
  /-- `CMPC Rn, Rm`, 1000_nnnn_mmmm_0101, R208 -/
  | cmpcRnRm (n m : Reg)
  /-- `CMPC Rn, #imm8`, 0101_nnnn_iiii_iiii, R209 -/
  | cmpcRnImm8 (n : Reg) (imm : BitVec 8)
  /-- `AND Rn, Rm`, 1000_nnnn_mmmm_0010, R210 -/
  | andRnRm (n m : Reg)
  /-- `AND Rn, #imm8`, 0010_nnnn_iiii_iiii, R211 -/
  | andRnImm8 (n : Reg) (imm : BitVec 8)
  /-- `OR Rn, Rm`, 1000_nnnn_mmmm_0011, R212 -/
  | orRnRm (n m : Reg)
  /-- `OR Rn, #imm8`, 0011_nnnn_iiii_iiii, R213 -/
  | orRnImm8 (n : Reg) (imm : BitVec 8)
  /-- `XOR Rn, Rm`, 1000_nnnn_mmmm_0100, R214 -/
  | xorRnRm (n m : Reg)
  /-- `XOR Rn, #imm8`, 0100_nnnn_iiii_iiii, R215 -/
  | xorRnImm8 (n : Reg) (imm : BitVec 8)
  /-- `SUB Rn, Rm`, 1000_nnnn_mmmm_1000, R216 -/
  | subRnRm (n m : Reg)
  /-- `SUBC Rn, Rm`, 1000_nnnn_mmmm_1001, R217 -/
  | subcRnRm (n m : Reg)
  /-- `MOV ERn, ERm`, 1111_nnn0_mmm0_0101, R218 -/
  | movErnErm (n m : Reg)
  /-- `MOV ERn, #imm7`, 1110_nnn0_0iii_iiii, R219 -/
  | movErnImm7 (n : Reg) (imm : BitVec 7)
  /-- `ADD ERn, ERm`, 1111_nnn0_mmm0_0110, R220 -/
  | addErnErm (n m : Reg)
  /-- `ADD ERn, #imm7`, 1110_nnn0_1iii_iiii, R221 -/
  | addErnImm7 (n : Reg) (imm : BitVec 7)
  /-- `CMP ERn, ERm`, 1111_nnn0_mmm0_0111, R222 -/
  | cmpErnErm (n m : Reg)
  /-- `SLL Rn, Rm`, 1000_nnnn_mmmm_1010, R240 -/
  | sllRnRm (n m : Reg)
  /-- `SLL Rn, #width`, 1001_nnnn_0www_1010, R241 -/
  | sllRnWidth (n : Reg) (width : BitVec 3)
  /-- `SLLC Rn, Rm`, 1000_nnnn_mmmm_1011, R242 -/
  | sllcRnRm (n m : Reg)
  /-- `SLLC Rn, #width`, 1001_nnnn_0www_1011, R243 -/
  | sllcRnWidth (n : Reg) (width : BitVec 3)
  /-- `SRA Rn, Rm`, 1000_nnnn_mmmm_1110, R244 -/
  | sraRnRm (n m : Reg)
  /-- `SRA Rn, #width`, 1001_nnnn_0www_1110, R245 -/
  | sraRnWidth (n : Reg) (width : BitVec 3)
  /-- `SRL Rn, Rm`, 1000_nnnn_mmmm_1100, R246 -/
  | srlRnRm (n m : Reg)
  /-- `SRL Rn, #width`, 1001_nnnn_0www_1100, R247 -/
  | srlRnWidth (n : Reg) (width : BitVec 3)
  /-- `SRLC Rn, Rm`, 1000_nnnn_mmmm_1101, R248 -/
  | srlcRnRm (n m : Reg)
  /-- `SRLC Rn, #width`, 1001_nnnn_0www_1101, R249 -/
  | srlcRnWidth (n : Reg) (width : BitVec 3)
  /-- `DSR prefix: pseg_addr (#imm8)`, 1110_0011_iiii_iiii, R260 -/
  | dsrPrefixImm8 (imm : BitVec 8)
  /-- `DSR prefix: Rd`, 1001_0000_dddd_1111, R261 -/
  | dsrPrefixRd (d : Reg)
  /-- `DSR prefix: DSR`, 1111_1110_1001_1111, R262 -/
  | dsrPrefixDsr
  /-- `L Rn, [EA]`, 1001_nnnn_0011_0000, R264 -/
  | lRnEa (n : Reg)
  /-- `L Rn, [EA+]`, 1001_nnnn_0101_0000, R265 -/
  | lRnEaInc (n : Reg)
  /-- `L Rn, [ERm]`, 1001_nnnn_mmm0_0000, R266 -/
  | lRnErm (n m : Reg)
  /-- `L Rn, Disp16[ERm]`, 1001_nnnn_mmm0_1000 + Disp16, R267 -/
  | lRnDisp16Erm (n m : Reg) (disp : Word)
  /-- `L Rn, Disp6[BP]`, 1101_nnnn_00DD_DDDD, R268 -/
  | lRnDisp6Bp (n : Reg) (disp : BitVec 6)
  /-- `L Rn, Disp6[FP]`, 1101_nnnn_01DD_DDDD, R269 -/
  | lRnDisp6Fp (n : Reg) (disp : BitVec 6)
  /-- `L Rn, Dadr`, 1001_nnnn_0001_0000 + Dadr, R270 -/
  | lRnDadr (n : Reg) (dadr : Word)
  /-- `L ERn, [EA]`, 1001_nnn0_0011_0010, R271 -/
  | lErnEa (n : Reg)
  /-- `L ERn, [EA+]`, 1001_nnn0_0101_0010, R272 -/
  | lErnEaInc (n : Reg)
  /-- `L ERn, [ERm]`, 1001_nnn0_mmm0_0010, R273 -/
  | lErnErm (n m : Reg)
  /-- `L ERn, Disp16[ERm]`, 1010_nnn0_mmm0_1000 + Disp16, R274 -/
  | lErnDisp16Erm (n m : Reg) (disp : Word)
  /-- `L ERn, Disp6[BP]`, 1011_nnn0_00DD_DDDD, R275 -/
  | lErnDisp6Bp (n : Reg) (disp : BitVec 6)
  /-- `L ERn, Disp6[FP]`, 1011_nnn0_01DD_DDDD, R276 -/
  | lErnDisp6Fp (n : Reg) (disp : BitVec 6)
  /-- `L ERn, Dadr`, 1001_nnn0_0001_0010 + Dadr, R277 -/
  | lErnDadr (n : Reg) (dadr : Word)
  /-- `L XRn, [EA]`, 1001_nn00_0011_0100, R278 -/
  | lXrnEa (n : Reg)
  /-- `L XRn, [EA+]`, 1001_nn00_0101_0100, R279 -/
  | lXrnEaInc (n : Reg)
  /-- `L QRn, [EA]`, 1001_n000_0011_0110, R280 -/
  | lQrnEa (n : Reg)
  /-- `L QRn, [EA+]`, 1001_n000_0101_0110, R281 -/
  | lQrnEaInc (n : Reg)
  /-- `ST Rn, [EA]`, 1001_nnnn_0011_0001, R282 -/
  | stRnEa (n : Reg)
  /-- `ST Rn, [EA+]`, 1001_nnnn_0101_0001, R283 -/
  | stRnEaInc (n : Reg)
  /-- `ST Rn, [ERm]`, 1001_nnnn_mmm0_0001, R284 -/
  | stRnErm (n m : Reg)
  /-- `ST Rn, Disp16[ERm]`, 1001_nnnn_mmm0_1001 + Disp16, R285 -/
  | stRnDisp16Erm (n m : Reg) (disp : Word)
  /-- `ST Rn, Disp6[BP]`, 1101_nnnn_10DD_DDDD, R286 -/
  | stRnDisp6Bp (n : Reg) (disp : BitVec 6)
  /-- `ST Rn, Disp6[FP]`, 1101_nnnn_11DD_DDDD, R287 -/
  | stRnDisp6Fp (n : Reg) (disp : BitVec 6)
  /-- `ST Rn, Dadr`, 1001_nnnn_0001_0001 + Dadr, R288 -/
  | stRnDadr (n : Reg) (dadr : Word)
  /-- `ST ERn, [EA]`, 1001_nnn0_0011_0011, R289 -/
  | stErnEa (n : Reg)
  /-- `ST ERn, [EA+]`, 1001_nnn0_0101_0011, R290 -/
  | stErnEaInc (n : Reg)
  /-- `ST ERn, [ERm]`, 1001_nnn0_mmm0_0011, R291 -/
  | stErnErm (n m : Reg)
  /-- `ST ERn, Disp16[ERm]`, 1010_nnn0_mmm0_1001 + Disp16, R292 -/
  | stErnDisp16Erm (n m : Reg) (disp : Word)
  /-- `ST ERn, Disp6[BP]`, 1011_nnn0_10DD_DDDD, R293 -/
  | stErnDisp6Bp (n : Reg) (disp : BitVec 6)
  /-- `ST ERn, Disp6[FP]`, 1011_nnn0_11DD_DDDD, R294 -/
  | stErnDisp6Fp (n : Reg) (disp : BitVec 6)
  /-- `ST ERn, Dadr`, 1001_nnn0_0001_0011 + Dadr, R295 -/
  | stErnDadr (n : Reg) (dadr : Word)
  /-- `ST XRn, [EA]`, 1001_nn00_0011_0101, R296 -/
  | stXrnEa (n : Reg)
  /-- `ST XRn, [EA+]`, 1001_nn00_0101_0101, R297 -/
  | stXrnEaInc (n : Reg)
  /-- `ST QRn, [EA]`, 1001_n000_0011_0111, R298 -/
  | stQrnEa (n : Reg)
  /-- `ST QRn, [EA+]`, 1001_n000_0101_0111, R299 -/
  | stQrnEaInc (n : Reg)
  /-- `ADD SP, #signed8`, 1110_0001_iiii_iiii, R320 -/
  | addSpSigned8 (imm : BitVec 8)
  /-- `MOV ECSR, Rm`, 1010_0000_mmmm_1111, R321 -/
  | movEcsrRm (m : Reg)
  /-- `MOV ELR, ERm`, 1010_mmm0_0000_1101, R322 -/
  | movElrErm (m : Reg)
  /-- `MOV EPSW, Rm`, 1010_0000_mmmm_1100, R323 -/
  | movEpswRm (m : Reg)
  /-- `MOV ERn, ELR`, 1010_nnn0_0000_0101, R324 -/
  | movErnElr (n : Reg)
  /-- `MOV ERn, SP`, 1010_nnn0_0001_1010, R325 -/
  | movErnSp (n : Reg)
  /-- `MOV PSW, Rm`, 1010_0000_mmmm_1011, R326 -/
  | movPswRm (m : Reg)
  /-- `MOV PSW, #unsigned8`, 1110_1001_iiii_iiii, R327 -/
  | movPswUnsigned8 (imm : BitVec 8)
  /-- `MOV Rn, ECSR`, 1010_nnnn_0000_0111, R328 -/
  | movRnEcsr (n : Reg)
  /-- `MOV Rn, EPSW`, 1010_nnnn_0000_0100, R329 -/
  | movRnEpsw (n : Reg)
  /-- `MOV Rn, PSW`, 1010_nnnn_0000_0011, R330 -/
  | movRnPsw (n : Reg)
  /-- `MOV SP, ERm`, 1010_0001_mmm0_1010, R331 -/
  | movSpErm (m : Reg)
  /-- `PUSH Rn`, 1111_nnnn_0100_1110, R340 -/
  | pushRn (n : Reg)
  /-- `PUSH ERn`, 1111_nnn0_0101_1110, R341 -/
  | pushErn (n : Reg)
  /-- `PUSH XRn`, 1111_nn00_0110_1110, R342 -/
  | pushXrn (n : Reg)
  /-- `PUSH QRn`, 1111_n000_0111_1110, R343 -/
  | pushQrn (n : Reg)
  /-- `PUSH EA`, 1111_0001_1100_1110, R344 -/
  | pushEa
  /-- `PUSH ELR`, 1111_0010_1100_1110, R344 -/
  | pushElr
  /-- `PUSH EA, ELR`, 1111_0011_1100_1110, R344 -/
  | pushEaElr
  /-- `PUSH EPSW`, 1111_0100_1100_1110, R344 -/
  | pushEpsw
  /-- `PUSH EA, EPSW`, 1111_0101_1100_1110, R344 -/
  | pushEaEpsw
  /-- `PUSH ELR, EPSW`, 1111_0110_1100_1110, R344 -/
  | pushElrEpsw
  /-- `PUSH EA, ELR, EPSW`, 1111_0111_1100_1110, R344 -/
  | pushEaElrEpsw
  /-- `PUSH LR`, 1111_1000_1100_1110, R344 -/
  | pushLr
  /-- `PUSH EA, LR`, 1111_1001_1100_1110, R344 -/
  | pushEaLr
  /-- `PUSH ELR, LR`, 1111_1010_1100_1110, R344 -/
  | pushElrLr
  /-- `PUSH EA, ELR, LR`, 1111_1011_1100_1110, R344 -/
  | pushEaElrLr
  /-- `PUSH EPSW, LR`, 1111_1100_1100_1110, R344 -/
  | pushEpswLr
  /-- `PUSH EA, EPSW, LR`, 1111_1101_1100_1110, R344 -/
  | pushEaEpswLr
  /-- `PUSH ELR, EPSW, LR`, 1111_1110_1100_1110, R344 -/
  | pushElrEpswLr
  /-- `PUSH EA, ELR, EPSW, LR`, 1111_1111_1100_1110, R344 -/
  | pushEaElrEpswLr
  /-- `POP Rn`, 1111_nnnn_0000_1110, R345 -/
  | popRn (n : Reg)
  /-- `POP ERn`, 1111_nnn0_0001_1110, R346 -/
  | popErn (n : Reg)
  /-- `POP XRn`, 1111_nn00_0010_1110, R347 -/
  | popXrn (n : Reg)
  /-- `POP QRn`, 1111_n000_0011_1110, R348 -/
  | popQrn (n : Reg)
  /-- `POP EA`, 1111_0001_1000_1110, R349 -/
  | popEa
  /-- `POP PC`, 1111_0010_1000_1110, R349 -/
  | popPc
  /-- `POP EA, PC`, 1111_0011_1000_1110, R349 -/
  | popEaPc
  /-- `POP PSW`, 1111_0100_1000_1110, R349 -/
  | popPsw
  /-- `POP EA, PSW`, 1111_0101_1000_1110, R349 -/
  | popEaPsw
  /-- `POP PC, PSW`, 1111_0110_1000_1110, R349 -/
  | popPcPsw
  /-- `POP EA, PC, PSW`, 1111_0111_1000_1110, R349 -/
  | popEaPcPsw
  /-- `POP LR`, 1111_1000_1000_1110, R349 -/
  | popLr
  /-- `POP EA, LR`, 1111_1001_1000_1110, R349 -/
  | popEaLr
  /-- `POP PC, LR`, 1111_1010_1000_1110, R349 -/
  | popPcLr
  /-- `POP EA, PC, LR`, 1111_1011_1000_1110, R349 -/
  | popEaPcLr
  /-- `POP PSW, LR`, 1111_1100_1000_1110, R349 -/
  | popPswLr
  /-- `POP EA, PSW, LR`, 1111_1101_1000_1110, R349 -/
  | popEaPswLr
  /-- `POP PC, PSW, LR`, 1111_1110_1000_1110, R349 -/
  | popPcPswLr
  /-- `POP EA, PC, PSW, LR`, 1111_1111_1000_1110, R349 -/
  | popEaPcPswLr
  /-- `MOV CRn, Rm`, 1010_nnnn_mmmm_1110, R370 -/
  | movCrnRm (n m : Reg)
  /-- `MOV CRn, [EA]`, 1111_nnnn_0000_1101, R371 -/
  | movCrnEa (n : Reg)
  /-- `MOV CRn, [EA+]`, 1111_nnnn_0001_1101, R372 -/
  | movCrnEaInc (n : Reg)
  /-- `MOV CERn, [EA]`, 1111_nnn0_0010_1101, R373 -/
  | movCernEa (n : Reg)
  /-- `MOV CERn, [EA+]`, 1111_nnn0_0011_1101, R374 -/
  | movCernEaInc (n : Reg)
  /-- `MOV CXRn, [EA]`, 1111_nn00_0100_1101, R375 -/
  | movCxrnEa (n : Reg)
  /-- `MOV CXRn, [EA+]`, 1111_nn00_0101_1101, R376 -/
  | movCxrnEaInc (n : Reg)
  /-- `MOV CQRn, [EA]`, 1111_n000_0110_1101, R377 -/
  | movCqrnEa (n : Reg)
  /-- `MOV CQRn, [EA+]`, 1111_n000_0111_1101, R378 -/
  | movCqrnEaInc (n : Reg)
  /-- `MOV Rn, CRm`, 1010_nnnn_mmmm_0110, R379 -/
  | movRnCrm (n m : Reg)
  /-- `MOV [EA], CRm`, 1111_mmmm_1000_1101, R380 -/
  | movEaCrm (m : Reg)
  /-- `MOV [EA+], CRm`, 1111_mmmm_1001_1101, R381 -/
  | movEaIncCrm (m : Reg)
  /-- `MOV [EA], CERm`, 1111_mmm0_1010_1101, R382 -/
  | movEaCerm (m : Reg)
  /-- `MOV [EA+], CERm`, 1111_mmm0_1011_1101, R383 -/
  | movEaIncCerm (m : Reg)
  /-- `MOV [EA], CXRm`, 1111_mm00_1100_1101, R384 -/
  | movEaCxrm (m : Reg)
  /-- `MOV [EA+], CXRm`, 1111_mm00_1101_1101, R385 -/
  | movEaIncCxrm (m : Reg)
  /-- `MOV [EA], CQRm`, 1111_m000_1110_1101, R386 -/
  | movEaCqrm (m : Reg)
  /-- `MOV [EA+], CQRm`, 1111_m000_1111_1101, R387 -/
  | movEaIncCqrm (m : Reg)
  /-- `LEA [ERm]`, 1111_0000_mmm0_1010, R400 -/
  | leaErm (m : Reg)
  /-- `LEA Disp16[ERm]`, 1111_0000_mmm0_1011 + Disp16, R401 -/
  | leaDisp16Erm (m : Reg) (disp : Word)
  /-- `LEA Dadr`, 1111_0000_0000_1100 + Dadr, R402 -/
  | leaDadr (dadr : Word)
  /-- `DAA Rn`, 1000_nnnn_0001_1111, R403 -/
  | daaRn (n : Reg)
  /-- `DAS Rn`, 1000_nnnn_0011_1111, R404 -/
  | dasRn (n : Reg)
  /-- `NEG Rn`, 1000_nnnn_0101_1111, R405 -/
  | negRn (n : Reg)
  /-- `EXTBW ER0`, 1000_0001_0000_1111, R406 -/
  | extbwEr0
  /-- `EXTBW ER2`, 1000_0011_0010_1111, R406 -/
  | extbwEr2
  /-- `EXTBW ER4`, 1000_0101_0100_1111, R406 -/
  | extbwEr4
  /-- `EXTBW ER6`, 1000_0111_0110_1111, R406 -/
  | extbwEr6
  /-- `EXTBW ER8`, 1000_1001_1000_1111, R406 -/
  | extbwEr8
  /-- `EXTBW ER10`, 1000_1011_1010_1111, R406 -/
  | extbwEr10
  /-- `EXTBW ER12`, 1000_1101_1100_1111, R406 -/
  | extbwEr12
  /-- `EXTBW ER14`, 1000_1111_1110_1111, R406 -/
  | extbwEr14
  /-- `SB Rn.bit_offset`, 1010_nnnn_0bbb_0000, R420 -/
  | sbRnBit (n : Reg) (bit : BitVec 3)
  /-- `SB Dbitadr`, 1010_0000_1bbb_0000 + Dadr, R421 -/
  | sbDbitadr (bit : BitVec 3) (dadr : Word)
  /-- `RB Rn.bit_offset`, 1010_nnnn_0bbb_0010, R422 -/
  | rbRnBit (n : Reg) (bit : BitVec 3)
  /-- `RB Dbitadr`, 1010_0000_1bbb_0010 + Dadr, R423 -/
  | rbDbitadr (bit : BitVec 3) (dadr : Word)
  /-- `TB Rn.bit_offset`, 1010_nnnn_0bbb_0001, R424 -/
  | tbRnBit (n : Reg) (bit : BitVec 3)
  /-- `TB Dbitadr`, 1010_0000_1bbb_0001 + Dadr, R425 -/
  | tbDbitadr (bit : BitVec 3) (dadr : Word)
  /-- `EI`, 1110_1101_0000_1000, R426 -/
  | ei
  /-- `DI`, 1110_1011_1111_0111, R427 -/
  | di
  /-- `SC`, 1110_1101_1000_0000, R428 -/
  | sc
  /-- `RC`, 1110_1011_0111_1111, R429 -/
  | rc
  /-- `CPLC`, 1111_1110_1100_1111, R430 -/
  | cplc
  /-- `BGE Radr`, 1100_0000_rrrr_rrrr, R441 -/
  | bgeRadr (disp : BitVec 8)
  /-- `BLT Radr`, 1100_0001_rrrr_rrrr, R442 -/
  | bltRadr (disp : BitVec 8)
  /-- `BGT Radr`, 1100_0010_rrrr_rrrr, R443 -/
  | bgtRadr (disp : BitVec 8)
  /-- `BLE Radr`, 1100_0011_rrrr_rrrr, R444 -/
  | bleRadr (disp : BitVec 8)
  /-- `BGES Radr`, 1100_0100_rrrr_rrrr, R445 -/
  | bgesRadr (disp : BitVec 8)
  /-- `BLTS Radr`, 1100_0101_rrrr_rrrr, R446 -/
  | bltsRadr (disp : BitVec 8)
  /-- `BGTS Radr`, 1100_0110_rrrr_rrrr, R447 -/
  | bgtsRadr (disp : BitVec 8)
  /-- `BLES Radr`, 1100_0111_rrrr_rrrr, R448 -/
  | blesRadr (disp : BitVec 8)
  /-- `BNE Radr`, 1100_1000_rrrr_rrrr, R449 -/
  | bneRadr (disp : BitVec 8)
  /-- `BEQ Radr`, 1100_1001_rrrr_rrrr, R450 -/
  | beqRadr (disp : BitVec 8)
  /-- `BNV Radr`, 1100_1010_rrrr_rrrr, R451 -/
  | bnvRadr (disp : BitVec 8)
  /-- `BOV Radr`, 1100_1011_rrrr_rrrr, R452 -/
  | bovRadr (disp : BitVec 8)
  /-- `BPS Radr`, 1100_1100_rrrr_rrrr, R453 -/
  | bpsRadr (disp : BitVec 8)
  /-- `BNS Radr`, 1100_1101_rrrr_rrrr, R454 -/
  | bnsRadr (disp : BitVec 8)
  /-- `BAL Radr`, 1100_1110_rrrr_rrrr, R455 -/
  | balRadr (disp : BitVec 8)
  /-- `B Cadr`, 1111_gggg_0000_0000 + Cadr[15:0], R456 -/
  | bCadr (g : BitVec 4) (cadr : Word)
  /-- `B ERn`, 1111_0000_nnn0_0010, R457 -/
  | bErn (n : Reg)
  /-- `BL Cadr`, 1111_gggg_0000_0001 + Cadr[15:0], R458 -/
  | blCadr (g : BitVec 4) (cadr : Word)
  /-- `BL ERn`, 1111_0000_nnn0_0011, R459 -/
  | blErn (n : Reg)
  /-- `RT`, 1111_1110_0001_1111, R460 -/
  | rt
  /-- `RTI`, 1111_1110_0000_1111, R461 -/
  | rti
  /-- `SWI #snum`, 1110_0101_00ii_iiii, R462 -/
  | swiSnum (snum : BitVec 6)
  /-- `BRK`, 1111_1111_1111_1111, R463 -/
  | brk
  /-- `MUL ERn, Rm`, 1111_nnn0_mmmm_0100, R480 -/
  | mulErnRm (n m : Reg)
  /-- `DIV ERn, Rm`, 1111_nnn0_mmmm_1001, R481 -/
  | divErnRm (n m : Reg)
  /-- `INC [EA]`, 1111_1110_0010_1111, R482 -/
  | incEa
  /-- `DEC [EA]`, 1111_1110_0011_1111, R483 -/
  | decEa
  /-- `NOP`, 1111_1110_1000_1111, R484 -/
  | nop
  deriving DecidableEq, Repr

end Sys2Proof
end

