-- ==== Sys2Proof/WellFormed.lean ====
section
/-! DEFINITION. Which operands the encodings admit (10_state.md R46, 30_encoding.md R164). -/
namespace Sys2Proof

/-- `nnn0`: the number of a word register ERn or CERn is even (30_encoding.md R164). -/
def isErNumber (n : Reg) : Bool := n.toNat % 2 == 0

/-- `nn00`: the number of a double-word register XRn or CXRn is a multiple of 4 (30_encoding.md R164). -/
def isXrNumber (n : Reg) : Bool := n.toNat % 4 == 0

/-- `n000`: the number of a quad-word register QRn or CQRn is a multiple of 8 (30_encoding.md R164). -/
def isQrNumber (n : Reg) : Bool := n.toNat % 8 == 0

/-- The operands are ones an instruction word can hold: every grouped register operand has its forced zero bits. -/
def Instr.wf (i : Instr) : Bool :=
  match i with
  | .addRnRm _ _ => true
  | .addRnImm8 _ _ => true
  | .movRnRm _ _ => true
  | .movRnImm8 _ _ => true
  | .addcRnRm _ _ => true
  | .addcRnImm8 _ _ => true
  | .cmpRnRm _ _ => true
  | .cmpRnImm8 _ _ => true
  | .cmpcRnRm _ _ => true
  | .cmpcRnImm8 _ _ => true
  | .andRnRm _ _ => true
  | .andRnImm8 _ _ => true
  | .orRnRm _ _ => true
  | .orRnImm8 _ _ => true
  | .xorRnRm _ _ => true
  | .xorRnImm8 _ _ => true
  | .subRnRm _ _ => true
  | .subcRnRm _ _ => true
  | .movErnErm n m => isErNumber n && isErNumber m
  | .movErnImm7 n _ => isErNumber n
  | .addErnErm n m => isErNumber n && isErNumber m
  | .addErnImm7 n _ => isErNumber n
  | .cmpErnErm n m => isErNumber n && isErNumber m
  | .sllRnRm _ _ => true
  | .sllRnWidth _ _ => true
  | .sllcRnRm _ _ => true
  | .sllcRnWidth _ _ => true
  | .sraRnRm _ _ => true
  | .sraRnWidth _ _ => true
  | .srlRnRm _ _ => true
  | .srlRnWidth _ _ => true
  | .srlcRnRm _ _ => true
  | .srlcRnWidth _ _ => true
  | .dsrPrefixImm8 _ => true
  | .dsrPrefixRd _ => true
  | .dsrPrefixDsr => true
  | .lRnEa _ => true
  | .lRnEaInc _ => true
  | .lRnErm _ m => isErNumber m
  | .lRnDisp16Erm _ m _ => isErNumber m
  | .lRnDisp6Bp _ _ => true
  | .lRnDisp6Fp _ _ => true
  | .lRnDadr _ _ => true
  | .lErnEa n => isErNumber n
  | .lErnEaInc n => isErNumber n
  | .lErnErm n m => isErNumber n && isErNumber m
  | .lErnDisp16Erm n m _ => isErNumber n && isErNumber m
  | .lErnDisp6Bp n _ => isErNumber n
  | .lErnDisp6Fp n _ => isErNumber n
  | .lErnDadr n _ => isErNumber n
  | .lXrnEa n => isXrNumber n
  | .lXrnEaInc n => isXrNumber n
  | .lQrnEa n => isQrNumber n
  | .lQrnEaInc n => isQrNumber n
  | .stRnEa _ => true
  | .stRnEaInc _ => true
  | .stRnErm _ m => isErNumber m
  | .stRnDisp16Erm _ m _ => isErNumber m
  | .stRnDisp6Bp _ _ => true
  | .stRnDisp6Fp _ _ => true
  | .stRnDadr _ _ => true
  | .stErnEa n => isErNumber n
  | .stErnEaInc n => isErNumber n
  | .stErnErm n m => isErNumber n && isErNumber m
  | .stErnDisp16Erm n m _ => isErNumber n && isErNumber m
  | .stErnDisp6Bp n _ => isErNumber n
  | .stErnDisp6Fp n _ => isErNumber n
  | .stErnDadr n _ => isErNumber n
  | .stXrnEa n => isXrNumber n
  | .stXrnEaInc n => isXrNumber n
  | .stQrnEa n => isQrNumber n
  | .stQrnEaInc n => isQrNumber n
  | .addSpSigned8 _ => true
  | .movEcsrRm _ => true
  | .movElrErm m => isErNumber m
  | .movEpswRm _ => true
  | .movErnElr n => isErNumber n
  | .movErnSp n => isErNumber n
  | .movPswRm _ => true
  | .movPswUnsigned8 _ => true
  | .movRnEcsr _ => true
  | .movRnEpsw _ => true
  | .movRnPsw _ => true
  | .movSpErm m => isErNumber m
  | .pushRn _ => true
  | .pushErn n => isErNumber n
  | .pushXrn n => isXrNumber n
  | .pushQrn n => isQrNumber n
  | .pushEa => true
  | .pushElr => true
  | .pushEaElr => true
  | .pushEpsw => true
  | .pushEaEpsw => true
  | .pushElrEpsw => true
  | .pushEaElrEpsw => true
  | .pushLr => true
  | .pushEaLr => true
  | .pushElrLr => true
  | .pushEaElrLr => true
  | .pushEpswLr => true
  | .pushEaEpswLr => true
  | .pushElrEpswLr => true
  | .pushEaElrEpswLr => true
  | .popRn _ => true
  | .popErn n => isErNumber n
  | .popXrn n => isXrNumber n
  | .popQrn n => isQrNumber n
  | .popEa => true
  | .popPc => true
  | .popEaPc => true
  | .popPsw => true
  | .popEaPsw => true
  | .popPcPsw => true
  | .popEaPcPsw => true
  | .popLr => true
  | .popEaLr => true
  | .popPcLr => true
  | .popEaPcLr => true
  | .popPswLr => true
  | .popEaPswLr => true
  | .popPcPswLr => true
  | .popEaPcPswLr => true
  | .movCrnRm _ _ => true
  | .movCrnEa _ => true
  | .movCrnEaInc _ => true
  | .movCernEa n => isErNumber n
  | .movCernEaInc n => isErNumber n
  | .movCxrnEa n => isXrNumber n
  | .movCxrnEaInc n => isXrNumber n
  | .movCqrnEa n => isQrNumber n
  | .movCqrnEaInc n => isQrNumber n
  | .movRnCrm _ _ => true
  | .movEaCrm _ => true
  | .movEaIncCrm _ => true
  | .movEaCerm m => isErNumber m
  | .movEaIncCerm m => isErNumber m
  | .movEaCxrm m => isXrNumber m
  | .movEaIncCxrm m => isXrNumber m
  | .movEaCqrm m => isQrNumber m
  | .movEaIncCqrm m => isQrNumber m
  | .leaErm m => isErNumber m
  | .leaDisp16Erm m _ => isErNumber m
  | .leaDadr _ => true
  | .daaRn _ => true
  | .dasRn _ => true
  | .negRn _ => true
  | .extbwEr0 => true
  | .extbwEr2 => true
  | .extbwEr4 => true
  | .extbwEr6 => true
  | .extbwEr8 => true
  | .extbwEr10 => true
  | .extbwEr12 => true
  | .extbwEr14 => true
  | .sbRnBit _ _ => true
  | .sbDbitadr _ _ => true
  | .rbRnBit _ _ => true
  | .rbDbitadr _ _ => true
  | .tbRnBit _ _ => true
  | .tbDbitadr _ _ => true
  | .ei => true
  | .di => true
  | .sc => true
  | .rc => true
  | .cplc => true
  | .bgeRadr _ => true
  | .bltRadr _ => true
  | .bgtRadr _ => true
  | .bleRadr _ => true
  | .bgesRadr _ => true
  | .bltsRadr _ => true
  | .bgtsRadr _ => true
  | .blesRadr _ => true
  | .bneRadr _ => true
  | .beqRadr _ => true
  | .bnvRadr _ => true
  | .bovRadr _ => true
  | .bpsRadr _ => true
  | .bnsRadr _ => true
  | .balRadr _ => true
  | .bCadr _ _ => true
  | .bErn n => isErNumber n
  | .blCadr _ _ => true
  | .blErn n => isErNumber n
  | .rt => true
  | .rti => true
  | .swiSnum _ => true
  | .brk => true
  | .mulErnRm n _ => isErNumber n
  | .divErnRm n _ => isErNumber n
  | .incEa => true
  | .decEa => true
  | .nop => true

end Sys2Proof
end

