-- ==== Sys2Proof/Decode.lean ====
section
/-! DEFINITION. From instruction words to instructions (30_encoding.md R160 to R185) and back. -/
namespace Sys2Proof

/-- Why no instruction is read. -/
inductive DecodeError where
  /-- the first word matches no row of the opcode table (R185) -/
  | unlistedEncoding
  /-- the byte string ends before the instruction does -/
  | truncated
  deriving DecidableEq, Repr

/-- The decoded instruction `i` where the operand field has its forced zero bits, an unlisted encoding otherwise
(R164, R185). -/
def listedIf (c : Bool) (i : Instr) : Option Instr := if c then some i else none

/-- Major groups 0 to 7: 8-bit operations on Rn and an immediate (R166). -/
def decodeImm8 (a n : BitVec 4) (imm : BitVec 8) : Option Instr :=
  match a with
  | 0x0#4 => some (.movRnImm8 n imm)
  | 0x1#4 => some (.addRnImm8 n imm)
  | 0x2#4 => some (.andRnImm8 n imm)
  | 0x3#4 => some (.orRnImm8 n imm)
  | 0x4#4 => some (.xorRnImm8 n imm)
  | 0x5#4 => some (.cmpcRnImm8 n imm)
  | 0x6#4 => some (.addcRnImm8 n imm)
  | 0x7#4 => some (.cmpRnImm8 n imm)
  | _ => none

/-- Major group 8 with low nibble F: DAA, DAS, NEG, EXTBW; both register fields of EXTBW name the same ERn
(R166, 46_lea_alu.md R406). -/
def decodeAdjust (n m : BitVec 4) : Option Instr :=
  match m with
  | 0x1#4 => some (.daaRn n)
  | 0x3#4 => some (.dasRn n)
  | 0x5#4 => some (.negRn n)
  | 0x0#4 => listedIf (n == 0x1#4) .extbwEr0
  | 0x2#4 => listedIf (n == 0x3#4) .extbwEr2
  | 0x4#4 => listedIf (n == 0x5#4) .extbwEr4
  | 0x6#4 => listedIf (n == 0x7#4) .extbwEr6
  | 0x8#4 => listedIf (n == 0x9#4) .extbwEr8
  | 0xA#4 => listedIf (n == 0xB#4) .extbwEr10
  | 0xC#4 => listedIf (n == 0xD#4) .extbwEr12
  | 0xE#4 => listedIf (n == 0xF#4) .extbwEr14
  | _ => none

/-- Major group 8: 8-bit operations on two registers (R166). -/
def decode8 (n m op : BitVec 4) : Option Instr :=
  match op with
  | 0x0#4 => some (.movRnRm n m)
  | 0x1#4 => some (.addRnRm n m)
  | 0x2#4 => some (.andRnRm n m)
  | 0x3#4 => some (.orRnRm n m)
  | 0x4#4 => some (.xorRnRm n m)
  | 0x5#4 => some (.cmpcRnRm n m)
  | 0x6#4 => some (.addcRnRm n m)
  | 0x7#4 => some (.cmpRnRm n m)
  | 0x8#4 => some (.subRnRm n m)
  | 0x9#4 => some (.subcRnRm n m)
  | 0xA#4 => some (.sllRnRm n m)
  | 0xB#4 => some (.sllcRnRm n m)
  | 0xC#4 => some (.srlRnRm n m)
  | 0xD#4 => some (.srlcRnRm n m)
  | 0xE#4 => some (.sraRnRm n m)
  | 0xF#4 => decodeAdjust n m
  | _ => none

/-- The second nibble of a load or store of group 9 selects `mmm0` [ERm], or one of the odd patterns 0001 Dadr,
0011 [EA], 0101 [EA+] (R166); a form the size does not have is `none`. -/
def decodeAddressing (m : BitVec 4) (dadr ea eaInc : Option Instr) (erm : Option Instr) : Option Instr :=
  if isErNumber m then erm
  else
    match m with
    | 0x1#4 => dadr
    | 0x3#4 => ea
    | 0x5#4 => eaInc
    | _ => none

/-- Major group 9 (R166): loads and stores, shifts by a width, the DSR prefix `Rd:`. -/
def decode9 (n m op : BitVec 4) (w2 : Word) : Option Instr :=
  match op with
  | 0x0#4 => decodeAddressing m (some (.lRnDadr n w2)) (some (.lRnEa n)) (some (.lRnEaInc n)) (some (.lRnErm n m))
  | 0x1#4 => decodeAddressing m (some (.stRnDadr n w2)) (some (.stRnEa n)) (some (.stRnEaInc n)) (some (.stRnErm n m))
  | 0x2#4 =>
    if isErNumber n then
      decodeAddressing m (some (.lErnDadr n w2)) (some (.lErnEa n)) (some (.lErnEaInc n)) (some (.lErnErm n m))
    else none
  | 0x3#4 =>
    if isErNumber n then
      decodeAddressing m (some (.stErnDadr n w2)) (some (.stErnEa n)) (some (.stErnEaInc n)) (some (.stErnErm n m))
    else none
  | 0x4#4 => if isXrNumber n then decodeAddressing m none (some (.lXrnEa n)) (some (.lXrnEaInc n)) none else none
  | 0x5#4 => if isXrNumber n then decodeAddressing m none (some (.stXrnEa n)) (some (.stXrnEaInc n)) none else none
  | 0x6#4 => if isQrNumber n then decodeAddressing m none (some (.lQrnEa n)) (some (.lQrnEaInc n)) none else none
  | 0x7#4 => if isQrNumber n then decodeAddressing m none (some (.stQrnEa n)) (some (.stQrnEaInc n)) none else none
  | 0x8#4 => listedIf (isErNumber m) (.lRnDisp16Erm n m w2)
  | 0x9#4 => listedIf (isErNumber m) (.stRnDisp16Erm n m w2)
  | 0xA#4 => listedIf (!m.msb) (.sllRnWidth n (m.extractLsb' 0 3))
  | 0xB#4 => listedIf (!m.msb) (.sllcRnWidth n (m.extractLsb' 0 3))
  | 0xC#4 => listedIf (!m.msb) (.srlRnWidth n (m.extractLsb' 0 3))
  | 0xD#4 => listedIf (!m.msb) (.srlcRnWidth n (m.extractLsb' 0 3))
  | 0xE#4 => listedIf (!m.msb) (.sraRnWidth n (m.extractLsb' 0 3))
  | 0xF#4 => listedIf (n == 0x0#4) (.dsrPrefixRd m)
  | _ => none

/-- A bit-access word of group A: the register form where its bit 7 is 0, the memory form where it is 1 and the
register field is 0000 (R166, 47_bit_psw.md). -/
def decodeBit (n m : BitVec 4) (register memory : Instr) : Option Instr :=
  if m.msb then listedIf (n == 0x0#4) memory else some register

/-- Major group A (R166): bit access, control registers, coprocessor register moves, word loads and stores with a
16-bit displacement. -/
def decodeA (n m op : BitVec 4) (w2 : Word) : Option Instr :=
  match op with
  | 0x0#4 => decodeBit n m (.sbRnBit n (m.extractLsb' 0 3)) (.sbDbitadr (m.extractLsb' 0 3) w2)
  | 0x1#4 => decodeBit n m (.tbRnBit n (m.extractLsb' 0 3)) (.tbDbitadr (m.extractLsb' 0 3) w2)
  | 0x2#4 => decodeBit n m (.rbRnBit n (m.extractLsb' 0 3)) (.rbDbitadr (m.extractLsb' 0 3) w2)
  | 0x3#4 => listedIf (m == 0x0#4) (.movRnPsw n)
  | 0x4#4 => listedIf (m == 0x0#4) (.movRnEpsw n)
  | 0x5#4 => listedIf (m == 0x0#4 && isErNumber n) (.movErnElr n)
  | 0x6#4 => some (.movRnCrm n m)
  | 0x7#4 => listedIf (m == 0x0#4) (.movRnEcsr n)
  | 0x8#4 => listedIf (isErNumber n && isErNumber m) (.lErnDisp16Erm n m w2)
  | 0x9#4 => listedIf (isErNumber n && isErNumber m) (.stErnDisp16Erm n m w2)
  | 0xA#4 =>
    if isErNumber m then listedIf (n == 0x1#4) (.movSpErm m)
    else listedIf (m == 0x1#4 && isErNumber n) (.movErnSp n)
  | 0xB#4 => listedIf (n == 0x0#4) (.movPswRm m)
  | 0xC#4 => listedIf (n == 0x0#4) (.movEpswRm m)
  | 0xD#4 => listedIf (m == 0x0#4 && isErNumber n) (.movElrErm n)
  | 0xE#4 => some (.movCrnRm n m)
  | 0xF#4 => listedIf (n == 0x0#4) (.movEcsrRm m)
  | _ => none

/-- Major group B (R166): word loads and stores with Disp6[BP] and Disp6[FP]. -/
def decodeB (n : BitVec 4) (lo : BitVec 8) : Option Instr :=
  let disp := lo.extractLsb' 0 6
  if isErNumber n then
    match lo.extractLsb' 6 2 with
    | 0b00#2 => some (.lErnDisp6Bp n disp)
    | 0b01#2 => some (.lErnDisp6Fp n disp)
    | 0b10#2 => some (.stErnDisp6Bp n disp)
    | 0b11#2 => some (.stErnDisp6Fp n disp)
    | _ => none
  else none

/-- Major group C (R166, 48_branch.md R440): conditional branches; condition 1111 is not listed. -/
def decodeC (cond : BitVec 4) (disp : BitVec 8) : Option Instr :=
  match cond with
  | 0x0#4 => some (.bgeRadr disp)
  | 0x1#4 => some (.bltRadr disp)
  | 0x2#4 => some (.bgtRadr disp)
  | 0x3#4 => some (.bleRadr disp)
  | 0x4#4 => some (.bgesRadr disp)
  | 0x5#4 => some (.bltsRadr disp)
  | 0x6#4 => some (.bgtsRadr disp)
  | 0x7#4 => some (.blesRadr disp)
  | 0x8#4 => some (.bneRadr disp)
  | 0x9#4 => some (.beqRadr disp)
  | 0xA#4 => some (.bnvRadr disp)
  | 0xB#4 => some (.bovRadr disp)
  | 0xC#4 => some (.bpsRadr disp)
  | 0xD#4 => some (.bnsRadr disp)
  | 0xE#4 => some (.balRadr disp)
  | _ => none

/-- Major group D (R166): byte loads and stores with Disp6[BP] and Disp6[FP]. -/
def decodeD (n : BitVec 4) (lo : BitVec 8) : Option Instr :=
  let disp := lo.extractLsb' 0 6
  match lo.extractLsb' 6 2 with
  | 0b00#2 => some (.lRnDisp6Bp n disp)
  | 0b01#2 => some (.lRnDisp6Fp n disp)
  | 0b10#2 => some (.stRnDisp6Bp n disp)
  | 0b11#2 => some (.stRnDisp6Fp n disp)
  | _ => none

/-- Major group E (R166): MOV and ADD ERn with a 7-bit immediate for even n, single words for odd n. -/
def decodeE (n : BitVec 4) (lo : BitVec 8) : Option Instr :=
  if isErNumber n then
    if lo.msb then some (.addErnImm7 n (lo.extractLsb' 0 7)) else some (.movErnImm7 n (lo.extractLsb' 0 7))
  else
    match n with
    | 0x1#4 => some (.addSpSigned8 lo)
    | 0x3#4 => some (.dsrPrefixImm8 lo)
    | 0x5#4 => listedIf (lo.extractLsb' 6 2 == 0b00#2) (.swiSnum (lo.extractLsb' 0 6))
    | 0x9#4 => some (.movPswUnsigned8 lo)
    | 0xB#4 => if lo == 0xF7#8 then some .di else listedIf (lo == 0x7F#8) .rc
    | 0xD#4 => if lo == 0x08#8 then some .ei else listedIf (lo == 0x80#8) .sc
    | _ => none

/-- Coprocessor transfers with memory (R165 CPM): `m` is `dsse`, `r` the coprocessor register number. -/
def decodeCoprocessor (r m : BitVec 4) : Option Instr :=
  match m with
  | 0x0#4 => some (.movCrnEa r)
  | 0x1#4 => some (.movCrnEaInc r)
  | 0x2#4 => listedIf (isErNumber r) (.movCernEa r)
  | 0x3#4 => listedIf (isErNumber r) (.movCernEaInc r)
  | 0x4#4 => listedIf (isXrNumber r) (.movCxrnEa r)
  | 0x5#4 => listedIf (isXrNumber r) (.movCxrnEaInc r)
  | 0x6#4 => listedIf (isQrNumber r) (.movCqrnEa r)
  | 0x7#4 => listedIf (isQrNumber r) (.movCqrnEaInc r)
  | 0x8#4 => some (.movEaCrm r)
  | 0x9#4 => some (.movEaIncCrm r)
  | 0xA#4 => listedIf (isErNumber r) (.movEaCerm r)
  | 0xB#4 => listedIf (isErNumber r) (.movEaIncCerm r)
  | 0xC#4 => listedIf (isXrNumber r) (.movEaCxrm r)
  | 0xD#4 => listedIf (isXrNumber r) (.movEaIncCxrm r)
  | 0xE#4 => listedIf (isQrNumber r) (.movEaCqrm r)
  | 0xF#4 => listedIf (isQrNumber r) (.movEaIncCqrm r)
  | _ => none

/-- The register list of `PUSH`, the nibble `lepa` (44_push_pop.md R344); the empty list is not listed. -/
def decodePushList (lepa : BitVec 4) : Option Instr :=
  match lepa with
  | 0x1#4 => some .pushEa
  | 0x2#4 => some .pushElr
  | 0x3#4 => some .pushEaElr
  | 0x4#4 => some .pushEpsw
  | 0x5#4 => some .pushEaEpsw
  | 0x6#4 => some .pushElrEpsw
  | 0x7#4 => some .pushEaElrEpsw
  | 0x8#4 => some .pushLr
  | 0x9#4 => some .pushEaLr
  | 0xA#4 => some .pushElrLr
  | 0xB#4 => some .pushEaElrLr
  | 0xC#4 => some .pushEpswLr
  | 0xD#4 => some .pushEaEpswLr
  | 0xE#4 => some .pushElrEpswLr
  | 0xF#4 => some .pushEaElrEpswLr
  | _ => none

/-- The register list of `POP`, the nibble `lepa` (44_push_pop.md R349); the empty list is not listed. -/
def decodePopList (lepa : BitVec 4) : Option Instr :=
  match lepa with
  | 0x1#4 => some .popEa
  | 0x2#4 => some .popPc
  | 0x3#4 => some .popEaPc
  | 0x4#4 => some .popPsw
  | 0x5#4 => some .popEaPsw
  | 0x6#4 => some .popPcPsw
  | 0x7#4 => some .popEaPcPsw
  | 0x8#4 => some .popLr
  | 0x9#4 => some .popEaLr
  | 0xA#4 => some .popPcLr
  | 0xB#4 => some .popEaPcLr
  | 0xC#4 => some .popPswLr
  | 0xD#4 => some .popEaPswLr
  | 0xE#4 => some .popPcPswLr
  | 0xF#4 => some .popEaPcPswLr
  | _ => none

/-- PUSH and POP (R165 STK, STKL). -/
def decodeStack (r m : BitVec 4) : Option Instr :=
  match m with
  | 0x0#4 => some (.popRn r)
  | 0x1#4 => listedIf (isErNumber r) (.popErn r)
  | 0x2#4 => listedIf (isXrNumber r) (.popXrn r)
  | 0x3#4 => listedIf (isQrNumber r) (.popQrn r)
  | 0x4#4 => some (.pushRn r)
  | 0x5#4 => listedIf (isErNumber r) (.pushErn r)
  | 0x6#4 => listedIf (isXrNumber r) (.pushXrn r)
  | 0x7#4 => listedIf (isQrNumber r) (.pushQrn r)
  | 0x8#4 => decodePopList r
  | 0xC#4 => decodePushList r
  | _ => none

/-- The fixed words FExFH and FFFFH (R165 FIX). -/
def decodeFixed (n m : BitVec 4) : Option Instr :=
  match n with
  | 0xE#4 =>
    match m with
    | 0x0#4 => some .rti
    | 0x1#4 => some .rt
    | 0x2#4 => some .incEa
    | 0x3#4 => some .decEa
    | 0x8#4 => some .nop
    | 0x9#4 => some .dsrPrefixDsr
    | 0xC#4 => some .cplc
    | _ => none
  | 0xF#4 => listedIf (m == 0xF#4) .brk
  | _ => none

/-- Major group F (R166). -/
def decodeF (n m op : BitVec 4) (w2 : Word) : Option Instr :=
  match op with
  | 0x0#4 => listedIf (m == 0x0#4) (.bCadr n w2)
  | 0x1#4 => listedIf (m == 0x0#4) (.blCadr n w2)
  | 0x2#4 => listedIf (n == 0x0#4 && isErNumber m) (.bErn m)
  | 0x3#4 => listedIf (n == 0x0#4 && isErNumber m) (.blErn m)
  | 0x4#4 => listedIf (isErNumber n) (.mulErnRm n m)
  | 0x5#4 => listedIf (isErNumber n && isErNumber m) (.movErnErm n m)
  | 0x6#4 => listedIf (isErNumber n && isErNumber m) (.addErnErm n m)
  | 0x7#4 => listedIf (isErNumber n && isErNumber m) (.cmpErnErm n m)
  | 0x9#4 => listedIf (isErNumber n) (.divErnRm n m)
  | 0xA#4 => listedIf (n == 0x0#4 && isErNumber m) (.leaErm m)
  | 0xB#4 => listedIf (n == 0x0#4 && isErNumber m) (.leaDisp16Erm m w2)
  | 0xC#4 => listedIf (n == 0x0#4 && m == 0x0#4) (.leaDadr w2)
  | 0xD#4 => decodeCoprocessor n m
  | 0xE#4 => decodeStack n m
  | 0xF#4 => decodeFixed n m
  | _ => none

/-- The instruction whose first word is `w1`, by the tree of R166; `w2` is the word after it, read only by the
two-word forms (R161). `none` is an unlisted encoding (R185). -/
def decodeWords (w1 w2 : Word) : Option Instr :=
  let n := w1.extractLsb' 8 4
  let lo := w1.extractLsb' 0 8
  let m := w1.extractLsb' 4 4
  let op := w1.extractLsb' 0 4
  match w1.extractLsb' 12 4 with
  | 0x8#4 => decode8 n m op
  | 0x9#4 => decode9 n m op w2
  | 0xA#4 => decodeA n m op w2
  | 0xB#4 => decodeB n lo
  | 0xC#4 => decodeC n lo
  | 0xD#4 => decodeD n lo
  | 0xE#4 => decodeE n lo
  | 0xF#4 => decodeF n m op w2
  | a => decodeImm8 a n lo

/-- Whether an instruction has a second word (R161). -/
def Instr.isTwoWord (i : Instr) : Bool :=
  match i with
  | .lRnDisp16Erm _ _ _ | .lErnDisp16Erm _ _ _ | .stRnDisp16Erm _ _ _ | .stErnDisp16Erm _ _ _ | .leaDisp16Erm _ _ => true
  | .lRnDadr _ _ | .lErnDadr _ _ | .stRnDadr _ _ | .stErnDadr _ _ | .leaDadr _ => true
  | .sbDbitadr _ _ | .rbDbitadr _ _ | .tbDbitadr _ _ => true
  | .bCadr _ _ | .blCadr _ _ => true
  | _ => false

/-- The length of an instruction in bytes, `len` of R162. -/
def Instr.size (i : Instr) : Nat := if i.isTwoWord then 4 else 2

/-- A word from its byte at the even address and its byte at the following odd address (20_memory.md R107). -/
def wordOfBytes (lo hi : Byte) : Word := hi ++ lo

/-- The two bytes of a word, the lower byte first (20_memory.md R107). -/
def bytesOfWord (w : Word) : List Byte := [w.extractLsb' 0 8, w.extractLsb' 8 8]

/-- The first instruction of a byte string and what follows it, or why there is none (R160 to R162, R185). -/
def decode (bytes : List Byte) : Except DecodeError (Instr × List Byte) :=
  match bytes with
  | b0 :: b1 :: rest =>
    match decodeWords (wordOfBytes b0 b1) 0 with
    | none => .error .unlistedEncoding
    | some i =>
      if i.isTwoWord then
        match rest with
        | b2 :: b3 :: rest' =>
          match decodeWords (wordOfBytes b0 b1) (wordOfBytes b2 b3) with
          | none => .error .unlistedEncoding
          | some i2 => .ok (i2, rest')
        | _ => .error .truncated
      else .ok (i, rest)
  | _ => .error .truncated

/-- A first word from its major nibble, its second nibble and its low byte (R160). -/
def firstWord (a n : BitVec 4) (lo : BitVec 8) : Word := a ++ n ++ lo

/-- The words of an instruction, each from its row's encoding in spec/opcode_table.json (R160 to R165). -/
def encode (i : Instr) : List Word :=
  match i with
  | .addRnRm n m => [firstWord 0x8#4 n (m ++ 0x1#4)]
  | .addRnImm8 n imm => [firstWord 0x1#4 n imm]
  | .movRnRm n m => [firstWord 0x8#4 n (m ++ 0x0#4)]
  | .movRnImm8 n imm => [firstWord 0x0#4 n imm]
  | .addcRnRm n m => [firstWord 0x8#4 n (m ++ 0x6#4)]
  | .addcRnImm8 n imm => [firstWord 0x6#4 n imm]
  | .cmpRnRm n m => [firstWord 0x8#4 n (m ++ 0x7#4)]
  | .cmpRnImm8 n imm => [firstWord 0x7#4 n imm]
  | .cmpcRnRm n m => [firstWord 0x8#4 n (m ++ 0x5#4)]
  | .cmpcRnImm8 n imm => [firstWord 0x5#4 n imm]
  | .andRnRm n m => [firstWord 0x8#4 n (m ++ 0x2#4)]
  | .andRnImm8 n imm => [firstWord 0x2#4 n imm]
  | .orRnRm n m => [firstWord 0x8#4 n (m ++ 0x3#4)]
  | .orRnImm8 n imm => [firstWord 0x3#4 n imm]
  | .xorRnRm n m => [firstWord 0x8#4 n (m ++ 0x4#4)]
  | .xorRnImm8 n imm => [firstWord 0x4#4 n imm]
  | .subRnRm n m => [firstWord 0x8#4 n (m ++ 0x8#4)]
  | .subcRnRm n m => [firstWord 0x8#4 n (m ++ 0x9#4)]
  | .movErnErm n m => [firstWord 0xF#4 n (m ++ 0x5#4)]
  | .movErnImm7 n imm => [firstWord 0xE#4 n (0b0#1 ++ imm)]
  | .addErnErm n m => [firstWord 0xF#4 n (m ++ 0x6#4)]
  | .addErnImm7 n imm => [firstWord 0xE#4 n (0b1#1 ++ imm)]
  | .cmpErnErm n m => [firstWord 0xF#4 n (m ++ 0x7#4)]
  | .sllRnRm n m => [firstWord 0x8#4 n (m ++ 0xA#4)]
  | .sllRnWidth n width => [firstWord 0x9#4 n (0b0#1 ++ width ++ 0xA#4)]
  | .sllcRnRm n m => [firstWord 0x8#4 n (m ++ 0xB#4)]
  | .sllcRnWidth n width => [firstWord 0x9#4 n (0b0#1 ++ width ++ 0xB#4)]
  | .sraRnRm n m => [firstWord 0x8#4 n (m ++ 0xE#4)]
  | .sraRnWidth n width => [firstWord 0x9#4 n (0b0#1 ++ width ++ 0xE#4)]
  | .srlRnRm n m => [firstWord 0x8#4 n (m ++ 0xC#4)]
  | .srlRnWidth n width => [firstWord 0x9#4 n (0b0#1 ++ width ++ 0xC#4)]
  | .srlcRnRm n m => [firstWord 0x8#4 n (m ++ 0xD#4)]
  | .srlcRnWidth n width => [firstWord 0x9#4 n (0b0#1 ++ width ++ 0xD#4)]
  | .dsrPrefixImm8 imm => [firstWord 0xE#4 0x3#4 imm]
  | .dsrPrefixRd d => [firstWord 0x9#4 0x0#4 (d ++ 0xF#4)]
  | .dsrPrefixDsr => [firstWord 0xF#4 0xE#4 0x9F#8]
  | .lRnEa n => [firstWord 0x9#4 n 0x30#8]
  | .lRnEaInc n => [firstWord 0x9#4 n 0x50#8]
  | .lRnErm n m => [firstWord 0x9#4 n (m ++ 0x0#4)]
  | .lRnDisp16Erm n m disp => [firstWord 0x9#4 n (m ++ 0x8#4), disp]
  | .lRnDisp6Bp n disp => [firstWord 0xD#4 n (0b00#2 ++ disp)]
  | .lRnDisp6Fp n disp => [firstWord 0xD#4 n (0b01#2 ++ disp)]
  | .lRnDadr n dadr => [firstWord 0x9#4 n 0x10#8, dadr]
  | .lErnEa n => [firstWord 0x9#4 n 0x32#8]
  | .lErnEaInc n => [firstWord 0x9#4 n 0x52#8]
  | .lErnErm n m => [firstWord 0x9#4 n (m ++ 0x2#4)]
  | .lErnDisp16Erm n m disp => [firstWord 0xA#4 n (m ++ 0x8#4), disp]
  | .lErnDisp6Bp n disp => [firstWord 0xB#4 n (0b00#2 ++ disp)]
  | .lErnDisp6Fp n disp => [firstWord 0xB#4 n (0b01#2 ++ disp)]
  | .lErnDadr n dadr => [firstWord 0x9#4 n 0x12#8, dadr]
  | .lXrnEa n => [firstWord 0x9#4 n 0x34#8]
  | .lXrnEaInc n => [firstWord 0x9#4 n 0x54#8]
  | .lQrnEa n => [firstWord 0x9#4 n 0x36#8]
  | .lQrnEaInc n => [firstWord 0x9#4 n 0x56#8]
  | .stRnEa n => [firstWord 0x9#4 n 0x31#8]
  | .stRnEaInc n => [firstWord 0x9#4 n 0x51#8]
  | .stRnErm n m => [firstWord 0x9#4 n (m ++ 0x1#4)]
  | .stRnDisp16Erm n m disp => [firstWord 0x9#4 n (m ++ 0x9#4), disp]
  | .stRnDisp6Bp n disp => [firstWord 0xD#4 n (0b10#2 ++ disp)]
  | .stRnDisp6Fp n disp => [firstWord 0xD#4 n (0b11#2 ++ disp)]
  | .stRnDadr n dadr => [firstWord 0x9#4 n 0x11#8, dadr]
  | .stErnEa n => [firstWord 0x9#4 n 0x33#8]
  | .stErnEaInc n => [firstWord 0x9#4 n 0x53#8]
  | .stErnErm n m => [firstWord 0x9#4 n (m ++ 0x3#4)]
  | .stErnDisp16Erm n m disp => [firstWord 0xA#4 n (m ++ 0x9#4), disp]
  | .stErnDisp6Bp n disp => [firstWord 0xB#4 n (0b10#2 ++ disp)]
  | .stErnDisp6Fp n disp => [firstWord 0xB#4 n (0b11#2 ++ disp)]
  | .stErnDadr n dadr => [firstWord 0x9#4 n 0x13#8, dadr]
  | .stXrnEa n => [firstWord 0x9#4 n 0x35#8]
  | .stXrnEaInc n => [firstWord 0x9#4 n 0x55#8]
  | .stQrnEa n => [firstWord 0x9#4 n 0x37#8]
  | .stQrnEaInc n => [firstWord 0x9#4 n 0x57#8]
  | .addSpSigned8 imm => [firstWord 0xE#4 0x1#4 imm]
  | .movEcsrRm m => [firstWord 0xA#4 0x0#4 (m ++ 0xF#4)]
  | .movElrErm m => [firstWord 0xA#4 m 0x0D#8]
  | .movEpswRm m => [firstWord 0xA#4 0x0#4 (m ++ 0xC#4)]
  | .movErnElr n => [firstWord 0xA#4 n 0x05#8]
  | .movErnSp n => [firstWord 0xA#4 n 0x1A#8]
  | .movPswRm m => [firstWord 0xA#4 0x0#4 (m ++ 0xB#4)]
  | .movPswUnsigned8 imm => [firstWord 0xE#4 0x9#4 imm]
  | .movRnEcsr n => [firstWord 0xA#4 n 0x07#8]
  | .movRnEpsw n => [firstWord 0xA#4 n 0x04#8]
  | .movRnPsw n => [firstWord 0xA#4 n 0x03#8]
  | .movSpErm m => [firstWord 0xA#4 0x1#4 (m ++ 0xA#4)]
  | .pushRn n => [firstWord 0xF#4 n 0x4E#8]
  | .pushErn n => [firstWord 0xF#4 n 0x5E#8]
  | .pushXrn n => [firstWord 0xF#4 n 0x6E#8]
  | .pushQrn n => [firstWord 0xF#4 n 0x7E#8]
  | .pushEa => [firstWord 0xF#4 0x1#4 0xCE#8]
  | .pushElr => [firstWord 0xF#4 0x2#4 0xCE#8]
  | .pushEaElr => [firstWord 0xF#4 0x3#4 0xCE#8]
  | .pushEpsw => [firstWord 0xF#4 0x4#4 0xCE#8]
  | .pushEaEpsw => [firstWord 0xF#4 0x5#4 0xCE#8]
  | .pushElrEpsw => [firstWord 0xF#4 0x6#4 0xCE#8]
  | .pushEaElrEpsw => [firstWord 0xF#4 0x7#4 0xCE#8]
  | .pushLr => [firstWord 0xF#4 0x8#4 0xCE#8]
  | .pushEaLr => [firstWord 0xF#4 0x9#4 0xCE#8]
  | .pushElrLr => [firstWord 0xF#4 0xA#4 0xCE#8]
  | .pushEaElrLr => [firstWord 0xF#4 0xB#4 0xCE#8]
  | .pushEpswLr => [firstWord 0xF#4 0xC#4 0xCE#8]
  | .pushEaEpswLr => [firstWord 0xF#4 0xD#4 0xCE#8]
  | .pushElrEpswLr => [firstWord 0xF#4 0xE#4 0xCE#8]
  | .pushEaElrEpswLr => [firstWord 0xF#4 0xF#4 0xCE#8]
  | .popRn n => [firstWord 0xF#4 n 0x0E#8]
  | .popErn n => [firstWord 0xF#4 n 0x1E#8]
  | .popXrn n => [firstWord 0xF#4 n 0x2E#8]
  | .popQrn n => [firstWord 0xF#4 n 0x3E#8]
  | .popEa => [firstWord 0xF#4 0x1#4 0x8E#8]
  | .popPc => [firstWord 0xF#4 0x2#4 0x8E#8]
  | .popEaPc => [firstWord 0xF#4 0x3#4 0x8E#8]
  | .popPsw => [firstWord 0xF#4 0x4#4 0x8E#8]
  | .popEaPsw => [firstWord 0xF#4 0x5#4 0x8E#8]
  | .popPcPsw => [firstWord 0xF#4 0x6#4 0x8E#8]
  | .popEaPcPsw => [firstWord 0xF#4 0x7#4 0x8E#8]
  | .popLr => [firstWord 0xF#4 0x8#4 0x8E#8]
  | .popEaLr => [firstWord 0xF#4 0x9#4 0x8E#8]
  | .popPcLr => [firstWord 0xF#4 0xA#4 0x8E#8]
  | .popEaPcLr => [firstWord 0xF#4 0xB#4 0x8E#8]
  | .popPswLr => [firstWord 0xF#4 0xC#4 0x8E#8]
  | .popEaPswLr => [firstWord 0xF#4 0xD#4 0x8E#8]
  | .popPcPswLr => [firstWord 0xF#4 0xE#4 0x8E#8]
  | .popEaPcPswLr => [firstWord 0xF#4 0xF#4 0x8E#8]
  | .movCrnRm n m => [firstWord 0xA#4 n (m ++ 0xE#4)]
  | .movCrnEa n => [firstWord 0xF#4 n 0x0D#8]
  | .movCrnEaInc n => [firstWord 0xF#4 n 0x1D#8]
  | .movCernEa n => [firstWord 0xF#4 n 0x2D#8]
  | .movCernEaInc n => [firstWord 0xF#4 n 0x3D#8]
  | .movCxrnEa n => [firstWord 0xF#4 n 0x4D#8]
  | .movCxrnEaInc n => [firstWord 0xF#4 n 0x5D#8]
  | .movCqrnEa n => [firstWord 0xF#4 n 0x6D#8]
  | .movCqrnEaInc n => [firstWord 0xF#4 n 0x7D#8]
  | .movRnCrm n m => [firstWord 0xA#4 n (m ++ 0x6#4)]
  | .movEaCrm m => [firstWord 0xF#4 m 0x8D#8]
  | .movEaIncCrm m => [firstWord 0xF#4 m 0x9D#8]
  | .movEaCerm m => [firstWord 0xF#4 m 0xAD#8]
  | .movEaIncCerm m => [firstWord 0xF#4 m 0xBD#8]
  | .movEaCxrm m => [firstWord 0xF#4 m 0xCD#8]
  | .movEaIncCxrm m => [firstWord 0xF#4 m 0xDD#8]
  | .movEaCqrm m => [firstWord 0xF#4 m 0xED#8]
  | .movEaIncCqrm m => [firstWord 0xF#4 m 0xFD#8]
  | .leaErm m => [firstWord 0xF#4 0x0#4 (m ++ 0xA#4)]
  | .leaDisp16Erm m disp => [firstWord 0xF#4 0x0#4 (m ++ 0xB#4), disp]
  | .leaDadr dadr => [firstWord 0xF#4 0x0#4 0x0C#8, dadr]
  | .daaRn n => [firstWord 0x8#4 n 0x1F#8]
  | .dasRn n => [firstWord 0x8#4 n 0x3F#8]
  | .negRn n => [firstWord 0x8#4 n 0x5F#8]
  | .extbwEr0 => [firstWord 0x8#4 0x1#4 0x0F#8]
  | .extbwEr2 => [firstWord 0x8#4 0x3#4 0x2F#8]
  | .extbwEr4 => [firstWord 0x8#4 0x5#4 0x4F#8]
  | .extbwEr6 => [firstWord 0x8#4 0x7#4 0x6F#8]
  | .extbwEr8 => [firstWord 0x8#4 0x9#4 0x8F#8]
  | .extbwEr10 => [firstWord 0x8#4 0xB#4 0xAF#8]
  | .extbwEr12 => [firstWord 0x8#4 0xD#4 0xCF#8]
  | .extbwEr14 => [firstWord 0x8#4 0xF#4 0xEF#8]
  | .sbRnBit n bit => [firstWord 0xA#4 n (0b0#1 ++ bit ++ 0x0#4)]
  | .sbDbitadr bit dadr => [firstWord 0xA#4 0x0#4 (0b1#1 ++ bit ++ 0x0#4), dadr]
  | .rbRnBit n bit => [firstWord 0xA#4 n (0b0#1 ++ bit ++ 0x2#4)]
  | .rbDbitadr bit dadr => [firstWord 0xA#4 0x0#4 (0b1#1 ++ bit ++ 0x2#4), dadr]
  | .tbRnBit n bit => [firstWord 0xA#4 n (0b0#1 ++ bit ++ 0x1#4)]
  | .tbDbitadr bit dadr => [firstWord 0xA#4 0x0#4 (0b1#1 ++ bit ++ 0x1#4), dadr]
  | .ei => [firstWord 0xE#4 0xD#4 0x08#8]
  | .di => [firstWord 0xE#4 0xB#4 0xF7#8]
  | .sc => [firstWord 0xE#4 0xD#4 0x80#8]
  | .rc => [firstWord 0xE#4 0xB#4 0x7F#8]
  | .cplc => [firstWord 0xF#4 0xE#4 0xCF#8]
  | .bgeRadr disp => [firstWord 0xC#4 0x0#4 disp]
  | .bltRadr disp => [firstWord 0xC#4 0x1#4 disp]
  | .bgtRadr disp => [firstWord 0xC#4 0x2#4 disp]
  | .bleRadr disp => [firstWord 0xC#4 0x3#4 disp]
  | .bgesRadr disp => [firstWord 0xC#4 0x4#4 disp]
  | .bltsRadr disp => [firstWord 0xC#4 0x5#4 disp]
  | .bgtsRadr disp => [firstWord 0xC#4 0x6#4 disp]
  | .blesRadr disp => [firstWord 0xC#4 0x7#4 disp]
  | .bneRadr disp => [firstWord 0xC#4 0x8#4 disp]
  | .beqRadr disp => [firstWord 0xC#4 0x9#4 disp]
  | .bnvRadr disp => [firstWord 0xC#4 0xA#4 disp]
  | .bovRadr disp => [firstWord 0xC#4 0xB#4 disp]
  | .bpsRadr disp => [firstWord 0xC#4 0xC#4 disp]
  | .bnsRadr disp => [firstWord 0xC#4 0xD#4 disp]
  | .balRadr disp => [firstWord 0xC#4 0xE#4 disp]
  | .bCadr g cadr => [firstWord 0xF#4 g 0x00#8, cadr]
  | .bErn n => [firstWord 0xF#4 0x0#4 (n ++ 0x2#4)]
  | .blCadr g cadr => [firstWord 0xF#4 g 0x01#8, cadr]
  | .blErn n => [firstWord 0xF#4 0x0#4 (n ++ 0x3#4)]
  | .rt => [firstWord 0xF#4 0xE#4 0x1F#8]
  | .rti => [firstWord 0xF#4 0xE#4 0x0F#8]
  | .swiSnum snum => [firstWord 0xE#4 0x5#4 (0b00#2 ++ snum)]
  | .brk => [firstWord 0xF#4 0xF#4 0xFF#8]
  | .mulErnRm n m => [firstWord 0xF#4 n (m ++ 0x4#4)]
  | .divErnRm n m => [firstWord 0xF#4 n (m ++ 0x9#4)]
  | .incEa => [firstWord 0xF#4 0xE#4 0x2F#8]
  | .decEa => [firstWord 0xF#4 0xE#4 0x3F#8]
  | .nop => [firstWord 0xF#4 0xE#4 0x8F#8]

/-- The bytes of an instruction in code memory: each word's lower byte first (20_memory.md R107). -/
def encodeBytes (i : Instr) : List Byte := (encode i).flatMap bytesOfWord

/-- The `k` bytes of the number `w`, least significant first. -/
def bytesOfNat (k w : Nat) : List Byte := (List.range k).map fun i => BitVec.ofNat 8 (w / 2 ^ (8 * i))

/-- The instruction whose bits are `w`, of which `nbits` are given and every other bit is 0: bit 0 is the least
significant bit of the first word, a second word's bits count on from bit 16. -/
def decodeTableWord (nbits w : Nat) : Option Instr :=
  match decode (bytesOfNat 4 (w % 2 ^ nbits)) with
  | .ok (i, _) => some i
  | .error _ => none

end Sys2Proof
end

