-- ==== Sys2Proof/Machine/Fetch.lean ====
section
/-! DEFINITION. Fetching an instruction (00_scope.md R32 (1) and (2)) and placing one where the next fetch finds it. -/
namespace Sys2Proof.Machine

/-- The segment instructions are fetched from: CSR, which is 0 in the SMALL model (10_state.md R60, R68). -/
def State.fetchSeg (s : State) : CodeSeg := s.segRead s.csr

/-- An instruction that is read, or the refusal of an unlisted encoding (30_encoding.md R185). -/
def listed (i : Option Instr) : Res Instr :=
  match i with
  | none => .refused .unlistedEncoding
  | some j => .next j

/-- The instruction at CSR:PC; its second word, where it has one, is at the next word address of the same segment
(20_memory.md R108, 30_encoding.md R161). -/
def State.fetch (s : State) : Res Instr :=
  andThen (s.codeRead16 s.fetchSeg s.pc) fun w1 =>
    andThen (listed (decodeWords w1 0)) fun i =>
      if i.isTwoWord then
        andThen (s.codeRead16 s.fetchSeg (s.pc + 2)) fun w2 => listed (decodeWords w1 w2)
      else .next i

/-- The memory keys of the `k` bytes from the even offset at or below `off` on. -/
def codeKeysFrom (c : CodeSeg) (off : Word) (k : Nat) : List Nat :=
  (List.range k).map fun i => codeKey c ((off &&& 0xFFFE#16) + BitVec.ofNat 16 i)

/-- The memory with bytes stored at keys, whatever is present there: the loading of a program from outside. -/
def storeAll (m : Memory) : List (Nat × Byte) → Memory
  | [] => m
  | (k, b) :: rest => storeAll (m.write k b) rest

/-- The state in which the very next step fetches the instruction whose bits are `w`, of which `nbits` are given: its
bytes stand at CSR:PC as a program loaded from outside, and the boundary accepts nothing before it (log 4). -/
def placeInstr (s : State) (nbits w : Nat) : State :=
  { s with
    mem := storeAll s.mem ((codeKeysFrom s.fetchSeg s.pc 4).zip (bytesOfNat 4 (w % 2 ^ nbits)))
    codeStores := s.codeStores.remove (codeKeysFrom s.fetchSeg s.pc 4)
    resetIn := false
    iblock := true
    entryBlock := true }

end Sys2Proof.Machine
end

