-- ==== Sys2Proof/Machine/Interrupt.lean ====
section
/-! DEFINITION. What happens at an instruction boundary: the reset input, the acceptance of a hardware interrupt, or
the next instruction (00_scope.md R31, 60_exceptions.md R504 to R511, 70_reset_and_hazards.md R576 to R578). -/
namespace Sys2Proof.Machine

/-- What a boundary leads to. -/
inductive Boundary where
  /-- the reset sequence (R31 (a)) -/
  | reset
  /-- the acceptance of a request (R31 (b)), after the free choices of the boundary -/
  | accept (q : Request) (s : State)
  /-- the fetch and execution of an instruction (R31 (c)), after the free choices of the boundary -/
  | run (s : State)
  deriving DecidableEq, Repr

/-- Whether a maskable request is acceptable by 60_exceptions.md R507: MIE is 1 and the level is at most 1. -/
def State.miOpen (s : State) : Bool := flagMIE s.psw && decide (s.useLevel.toNat ≤ 1)

/-- Whether a maskable request may still be accepted after a MOV PSW that cleared MIE: the new ELEVEL is at most 1
(70_reset_and_hazards.md R577), and so is the level the acceptance test uses (R578, log 12). DESIGN CHOICE, unsafe
(log 38): the new ELEVEL is the one PSW holds at this boundary, which at the second boundary of the window may be what
a POP PSW, an RTI or another MOV PSW wrote after that MOV PSW. -/
def State.miLingers (s : State) : Bool :=
  !flagMIE s.psw && decide (0 < s.mieWindow) && decide (s.elevel.toNat ≤ 1) && decide (s.useLevel.toNat ≤ 1)

/-- The sources of the device whose requests are pending, in the device's order (00_scope.md R12). -/
def State.miPending (s : State) : List MiSource := s.dev.miSources.filter fun i => s.req.contains (.mi i)

/-- The maskable request that is considered, chosen by the device's rule (00_scope.md R12, 60_exceptions.md R508): the
first pending source in the device's order, or a free choice among the pending ones (log 10). -/
def State.miChoice (s : State) : Option MiSource :=
  match s.dev.miRule with
  | .order => s.miPending.head?
  | .any => s.miPending[(Config.freeWord s.draws).toNat % s.miPending.length]?

/-- The maskable part of a boundary, for the source `v`: accepted where it is acceptable (R507), a free choice inside
the windows after EI and MOV PSW (R576, R577). -/
def State.boundaryMi (s : State) (v : MiSource) : Boundary :=
  if (s.miOpen && decide (0 < s.eiWindow)) || s.miLingers then
    if Config.freeBit s.draws then .accept (.mi v) (s.drawn 1) else .run (s.drawn 1)
  else if s.miOpen then .accept (.mi v) s
  else .run s

/-- What this boundary leads to (R506 to R508): reset first, nothing while one of the latches of
R506 and 10_state.md R78 blocks (log 28), then NMICE, NMI, MI. -/
def State.boundary (s : State) : Boundary :=
  if s.resetIn then .reset
  else if s.iblock || s.entryBlock || s.pfx then .run s
  else if s.dev.hasNmice && s.req.contains .nmice then .accept .nmice s
  else if decide (s.useLevel.toNat ≤ 2) && s.req.contains .nmi then .accept .nmi s
  else
    match s.miChoice with
    | none => .run s
    | some v => s.boundaryMi v

/-- PSW as the acceptance of a maskable interrupt saves it: in the window after a MOV PSW that cleared MIE its MIE bit
is free (70_reset_and_hazards.md R577); the rest is PSW as it stands at this boundary (log 38). -/
def State.miSavedPsw (s : State) : Byte :=
  if s.miLingers then putMIE s.psw (Config.freeBit s.draws) else s.psw

/-- The acceptance of a request (60_exceptions.md R509, R511): it leaves REQ (R504) and its handler is entered with the
address of the next instruction. The acceptance of a maskable one spends one draw: the device's choice, or the saved
MIE bit of R577. -/
def State.acceptRequest (s : State) (q : Request) : Res State :=
  let s1 := { s with req := s.req.filter (· ≠ q) }
  match q with
  | .nmice => s1.enter 3#2 0x0006#16 s.pc false s.psw
  | .nmi => s1.enter 2#2 0x0008#16 s.pc false s.psw
  | .mi v => (s1.drawn 1).enter 1#2 (miVector v) s.pc true s.miSavedPsw

/-- The reset input (70_reset_and_hazards.md R560). -/
def State.acceptReset (s : State) : Res State := ({ s with resetIn := false }).resetSequence

end Sys2Proof.Machine
end

