-- ==== Sys2Proof/Machine/Step.lean ====
section
/-! DEFINITION. One step of the machine (00_scope.md R31, R32). -/
namespace Sys2Proof.Machine

/-- The fetch, decode and complete execution of one instruction (R31 (c)). -/
def runInstr (s : State) : Host.Outcome State Fault Refusal := andThen s.fetch fun i => exec i s

/-- One step: the reset sequence, the acceptance of one hardware interrupt, or one instruction (R31). -/
def step (s : State) : Host.Outcome State Fault Refusal :=
  match s.boundary with
  | .reset => s.acceptReset
  | .accept q s1 => s1.acceptRequest q
  | .run s1 => runInstr s1

/-- The state with the instruction of bits `w`, `nbits` of them given, where step fetches its next instruction. -/
def State.withFetchWord (s : State) (nbits w : Nat) : State := placeInstr s nbits w

end Sys2Proof.Machine
end

