-- ==== Sys2Proof/Safety.lean ====
section
/-! DEFINITION. The terms claims are stated in: what an instruction may need of the memory map, what it leaves
unchanged, and the invariant every step keeps. -/
namespace Sys2Proof.Machine

/-! What memory answers -/

/-- The memory keys of the `k` data bytes from `seg:off` upwards; offsets wrap in the segment (20_memory.md R115). -/
def keysOf (d : Device) (seg : Byte) (off : Word) (k : Nat) : List Nat :=
  (List.range k).map fun i => dataKey d seg (off + BitVec.ofNat 16 i)

/-- The `k` data bytes from `seg:off` upwards. -/
def bytesAt (s : State) (seg : Byte) (off : Word) (k : Nat) : List Byte := (keysOf s.dev seg off k).map s.mem.read

/-- MEMMAP has readable memory at each of the `k` data bytes from `seg:off` upwards (20_memory.md R114). -/
def readable (s : State) (seg : Byte) (off : Word) (k : Nat) : Prop :=
  ∀ x ∈ keysOf s.dev seg off k, canRead s.dev x = true

/-- Each of the `k` data bytes from `seg:off` upwards is outside the ROM window and MEMMAP has writable memory there
(20_memory.md R116). -/
def writable (s : State) (seg : Byte) (off : Word) (k : Nat) : Prop :=
  ∀ i < k, inRomWindow s.dev seg (off + BitVec.ofNat 16 i) = false ∧
    kindAt s.dev (dataKey s.dev seg (off + BitVec.ofNat 16 i)) = some .ram

/-- The memory keys of the `k` code bytes from `c:off` upwards. -/
def codeKeysOf (c : CodeSeg) (off : Word) (k : Nat) : List Nat :=
  (List.range k).map fun i => codeKey c (off + BitVec.ofNat 16 i)

/-- MEMMAP has code memory at each of the `k` code bytes from `c:off` upwards, and no store has written one
(20_memory.md R108, R148). -/
def fetchable (s : State) (c : CodeSeg) (off : Word) (k : Nat) : Prop :=
  ∀ x ∈ codeKeysOf c off k, canFetch s.dev x = true ∧ s.codeStores.contains x = false

/-- The word of code memory at the even offset `off`: the even byte is the low one (20_memory.md R107). -/
def codeWordAt (s : State) (c : CodeSeg) (off : Word) : Word :=
  s.mem.read (codeKey c (off + 1)) ++ s.mem.read (codeKey c off)

/-! Where an access stops -/

/-- What stops the fetch of the code byte at a memory key, if anything does (20_memory.md R108, R148). -/
def fetchStop (s : State) (k : Nat) : Option (Res State) :=
  if canFetch s.dev k = false then some (.fault .fetchAbsent)
  else if k ∈ s.codeStores then some (.refused .selfModifyingCode)
  else none

/-- What stops the fetch of the `k` code bytes from `c:off` upwards: the first byte that cannot be fetched decides. -/
def fetchStops (s : State) (c : CodeSeg) (off : Word) (k : Nat) : Option (Res State) :=
  (codeKeysOf c off k).findSome? (fetchStop s)

/-- What stops the write of the data byte at `seg:off`, if anything does: the ROM window, or that MEMMAP has nothing
writable there (20_memory.md R116, 00_scope.md R11). -/
def writeStop (s : State) (seg : Byte) (off : Word) : Option (Res State) :=
  if inRomWindow s.dev seg off = true then some (.fault .writeRomWindow)
  else if kindAt s.dev (dataKey s.dev seg off) = none then some (.fault .writeAbsent)
  else if kindAt s.dev (dataKey s.dev seg off) = some .rom then some (.fault .writeAbsent)
  else if kindAt s.dev (dataKey s.dev seg off) = some .readOnlyDevice then some (.fault .writeAbsent)
  else none

/-- What stops the write of the `k` data bytes from `seg:off` upwards: the first byte that cannot be written decides. -/
def writeStops (s : State) (seg : Byte) (off : Word) (k : Nat) : Option (Res State) :=
  (List.range k).findSome? fun i => writeStop s seg (off + BitVec.ofNat 16 i)

/-- What stops the push of `k` bytes: the first byte, from the one below SP downwards, that cannot be written decides
(44_push_pop.md R351). -/
def pushStops (s : State) (k : Nat) : Option (Res State) :=
  (List.range k).findSome? fun i => writeStop s 0 (s.sp - BitVec.ofNat 16 (i + 1))

/-- MEMMAP has nothing at some of the `k` data bytes from `seg:off` upwards (20_memory.md R114). -/
def someAbsent (s : State) (seg : Byte) (off : Word) (k : Nat) : Prop :=
  ∃ x ∈ keysOf s.dev seg off k, kindAt s.dev x = none

/-! Devices -/

/-- MEMMAP has memory or a device at each of the `k` data bytes from `seg:off` upwards (20_memory.md R114). -/
def answered (s : State) (seg : Byte) (off : Word) (k : Nat) : Prop :=
  ∀ x ∈ keysOf s.dev seg off k, kindAt s.dev x ≠ none

/-- Each of the `k` data bytes from `seg:off` upwards is outside the ROM window, and MEMMAP has writable memory or a
writable device there (20_memory.md R116, 00_scope.md R11). -/
def takes (s : State) (seg : Byte) (off : Word) (k : Nat) : Prop :=
  ∀ i < k, inRomWindow s.dev seg (off + BitVec.ofNat 16 i) = false ∧
    (kindAt s.dev (dataKey s.dev seg (off + BitVec.ofNat 16 i)) = some .ram ∨
      kindAt s.dev (dataKey s.dev seg (off + BitVec.ofNat 16 i)) = some .device)

/-- Of a list of memory keys, how many are those of a device. -/
def deviceCount (s : State) (ks : List Nat) : Nat := ks.countP (isDevice s.dev)

/-- `m` is the memory of `s` but for the bytes of devices, of which nothing is said: what the core sees where devices
answer (00_scope.md R7, 20_memory.md R145). -/
def seenMemory (s : State) (m : Memory) : Prop :=
  ∀ x, isDevice s.dev x = false → Memory.read m x = s.mem.read x

/-- `t` as it would be, had the core of `s` read plain memory `m` and no device. -/
def asSeen (s t : State) (m : Memory) : State := { t with mem := m, draws := s.draws }

/-- An instruction that read the bytes at the keys `ks` took `s` to `t`, devices answering some of them: there is a
memory `m`, that of `s` but for the bytes of devices, such that the instruction did what `effect` says of a machine
whose memory is `m`; memory itself is as before, and one free value has been drawn for each byte a device answered
(log 8). -/
def readsThrough (s t : State) (ks : List Nat) (effect : State → State → Prop) : Prop :=
  ∃ m : Memory, seenMemory s m ∧ effect { s with mem := m } (asSeen s t m) ∧ t.mem = s.mem ∧
    t.draws = s.draws + deviceCount s ks

/-! What an instruction leaves unchanged -/

/-- Every register but the general registers, PSW and PC, and everything else outside memory and the latches. -/
structure Special where
  cr : Vector Byte 16
  csr : CodeSeg
  lr : Word
  elr1 : Word
  elr2 : Word
  elr3 : Word
  lcsr : CodeSeg
  ecsr1 : CodeSeg
  ecsr2 : CodeSeg
  ecsr3 : CodeSeg
  epsw1 : Byte
  epsw2 : Byte
  epsw3 : Byte
  sp : Word
  ea : Word
  ar : Word
  dsr : Byte
  req : List Request
  resetIn : Bool
  codeStores : KeySet
  draws : Nat
  dev : Device
  deriving DecidableEq, Repr

/-- The special registers of a state, with what else an instruction may leave unchanged. -/
def State.special (s : State) : Special where
  cr := s.cr
  csr := s.csr
  lr := s.lr
  elr1 := s.elr1
  elr2 := s.elr2
  elr3 := s.elr3
  lcsr := s.lcsr
  ecsr1 := s.ecsr1
  ecsr2 := s.ecsr2
  ecsr3 := s.ecsr3
  epsw1 := s.epsw1
  epsw2 := s.epsw2
  epsw3 := s.epsw3
  sp := s.sp
  ea := s.ea
  ar := s.ar
  dsr := s.dsr
  req := s.req
  resetIn := s.resetIn
  codeStores := s.codeStores
  draws := s.draws
  dev := s.dev

/-- The seven fields of a status word (10_state.md R48). -/
def pswIs (p : Byte) (c z sg ov mie hc : Bool) (el : Level) : Prop :=
  flagC p = c ∧ flagZ p = z ∧ flagS p = sg ∧ flagOV p = ov ∧ flagMIE p = mie ∧ flagHC p = hc ∧ elevelOf p = el

/-- An instruction ended in `t` and goes on at offset `off`: PC there with bit 0 dropped, the prefix latch and both
block latches clear (00_scope.md R32, 10_state.md R58, 60_exceptions.md R506). -/
def goesOn (t : State) (off : Word) : Prop :=
  t.pc = off &&& 0xFFFE#16 ∧ t.pfx = false ∧ t.iblock = false ∧ t.entryBlock = false

/-- The same, with the windows of 70_reset_and_hazards.md R576 and R577 one boundary shorter than in `s` and the draw of
R578 spent. -/
def continuesAt (s t : State) (off : Word) : Prop :=
  goesOn t off ∧ t.eiWindow = s.eiWindow - 1 ∧ t.mieWindow = s.mieWindow - 1 ∧ t.levelView = none

/-- Every general register but the listed ones is unchanged. -/
def sameRegsBut (s t : State) (ns : List Reg) : Prop := ∀ x, x ∉ ns → t.reg x = s.reg x

/-- Every byte of memory but the ones at the listed keys reads as before. -/
def sameMemBut (s t : State) (ks : List Nat) : Prop := ∀ k, k ∉ ks → t.mem.read k = s.mem.read k

/-- From `s` to `t` the instruction continued at `off` and changed, beside PSW, only the listed general registers:
every byte of memory and every special register is as before. -/
def onlyRegs (s t : State) (off : Word) (ns : List Reg) : Prop :=
  continuesAt s t off ∧ sameRegsBut s t ns ∧ sameMemBut s t [] ∧ t.special = s.special

/-- The registers of the group of `k` that starts at `R[n]` (10_state.md R42 to R44). -/
def groupOf (n : Reg) (k : Nat) : List Reg := (List.range k).map fun i => n + BitVec.ofNat 4 i

/-- An access of `k` bytes at `DSEG:off` finds memory to read (20_memory.md R113, R114, R121). -/
def canLoad (s : State) (off : Word) (k : Nat) : Prop := readable s s.dseg (alignOff k off) k

/-- An access of `k` bytes at `DSEG:off` finds memory to write (20_memory.md R113, R116, R121). -/
def canStore (s : State) (off : Word) (k : Nat) : Prop := writable s s.dseg (alignOff k off) k

/-- A load of the group of `k` registers at `R[n]` from `DSEG:off` took `s` to `t` (42_load_store.md R263, R300, R301):
the registers hold the bytes at the aligned address, Z and S are of the loaded value, AR has latched the offset, EA is
`ea`, and nothing else has changed. -/
def loaded (s t : State) (next off : Word) (n : Reg) (k : Nat) (ea : Word) : Prop :=
  t.regs n k = bytesAt s s.dseg (alignOff k off) k ∧
    pswIs t.psw (flagC s.psw) (decide (∀ b ∈ bytesAt s s.dseg (alignOff k off) k, b = 0))
      ((bytesAt s s.dseg (alignOff k off) k).getLastD 0).msb (flagOV s.psw) (flagMIE s.psw) (flagHC s.psw)
      (elevelOf s.psw) ∧
    continuesAt s t next ∧ sameRegsBut s t (groupOf n k) ∧ sameMemBut s t [] ∧
    t.special = { s.special with ea := ea, ar := off }

/-- What a store of bytes at `seg:base` upwards does to memory: the bytes are there, every other byte is as before, and
the written bytes of the segments code shares are remembered (20_memory.md R116, R148). -/
def storedAt (s t : State) (seg : Byte) (base : Word) (bytes : List Byte) : Prop :=
  bytesAt t seg base bytes.length = bytes ∧
    sameMemBut s t (keysOf s.dev seg base bytes.length) ∧
    ∀ x, x ∈ t.codeStores ↔ x ∈ s.codeStores ∨ (x ∈ keysOf s.dev seg base bytes.length ∧ isSharedKey x = true)

/-- A store of bytes at `DSEG:off` took `s` to `t` (42_load_store.md R301): memory holds them at the aligned address,
AR has latched the offset, EA is `ea`; every general register, PSW and everything else is as before. -/
def stored (s t : State) (next off : Word) (bytes : List Byte) (ea : Word) : Prop :=
  storedAt s t s.dseg (alignOff bytes.length off) bytes ∧ t.psw = s.psw ∧ continuesAt s t next ∧
    sameRegsBut s t [] ∧
    t.special = { s.special with ea := ea, ar := off, codeStores := t.codeStores }

/-- What a store of bytes at `seg:base` upwards does where devices take some of them: writable memory holds its bytes,
every other byte of memory is as before, and the written bytes of the segments code shares are remembered
(20_memory.md R116, R148; what a device does with a byte is outside the model, log 8). -/
def takenAt (s t : State) (seg : Byte) (base : Word) (bytes : List Byte) : Prop :=
  (∀ i b, bytes[i]? = some b → kindAt s.dev (dataKey s.dev seg (base + BitVec.ofNat 16 i)) = some .ram →
      t.mem.read (dataKey s.dev seg (base + BitVec.ofNat 16 i)) = b) ∧
    sameMemBut s t ((keysOf s.dev seg base bytes.length).filter fun x => kindAt s.dev x == some .ram) ∧
    ∀ x, x ∈ t.codeStores ↔
      x ∈ s.codeStores ∨
        (x ∈ keysOf s.dev seg base bytes.length ∧ kindAt s.dev x = some .ram ∧ isSharedKey x = true)

/-- A store of bytes at `DSEG:off` took `s` to `t`, devices taking some of them: as `stored`, but for `takenAt`. -/
def taken (s t : State) (next off : Word) (bytes : List Byte) (ea : Word) : Prop :=
  takenAt s t s.dseg (alignOff bytes.length off) bytes ∧ t.psw = s.psw ∧ continuesAt s t next ∧
    sameRegsBut s t [] ∧
    t.special = { s.special with ea := ea, ar := off, codeStores := t.codeStores }

/-- A form of a transfer between registers and data memory: the instruction, its size in bytes, its offset, where it
continues, and EA after it. -/
structure Transfer where
  instr : Instr
  size : Nat
  off : Word
  next : Word
  ea : Word
  deriving DecidableEq, Repr

/-- The eighteen load forms into the general registers (42_load_store.md R264 to R281). -/
def loadForms (s : State) (n m : Reg) (disp dadr : Word) (d6 : BitVec 6) : List Transfer :=
  [⟨.lRnEa n, 1, s.ea, s.nextPc, s.ea⟩, ⟨.lRnEaInc n, 1, s.ea, s.nextPc, s.ea + 1⟩,
    ⟨.lRnErm n m, 1, s.er m, s.nextPc, s.ea⟩, ⟨.lRnDisp16Erm n m disp, 1, s.er m + disp, s.nextPc2, s.ea⟩,
    ⟨.lRnDisp6Bp n d6, 1, s.er 12 + d6.signExtend 16, s.nextPc, s.ea⟩,
    ⟨.lRnDisp6Fp n d6, 1, s.er 14 + d6.signExtend 16, s.nextPc, s.ea⟩, ⟨.lRnDadr n dadr, 1, dadr, s.nextPc2, s.ea⟩,
    ⟨.lErnEa n, 2, s.ea, s.nextPc, s.ea⟩, ⟨.lErnEaInc n, 2, s.ea, s.nextPc, (s.ea + 2) &&& 0xFFFE#16⟩,
    ⟨.lErnErm n m, 2, s.er m, s.nextPc, s.ea⟩, ⟨.lErnDisp16Erm n m disp, 2, s.er m + disp, s.nextPc2, s.ea⟩,
    ⟨.lErnDisp6Bp n d6, 2, s.er 12 + d6.signExtend 16, s.nextPc, s.ea⟩,
    ⟨.lErnDisp6Fp n d6, 2, s.er 14 + d6.signExtend 16, s.nextPc, s.ea⟩, ⟨.lErnDadr n dadr, 2, dadr, s.nextPc2, s.ea⟩,
    ⟨.lXrnEa n, 4, s.ea, s.nextPc, s.ea⟩, ⟨.lXrnEaInc n, 4, s.ea, s.nextPc, (s.ea + 4) &&& 0xFFFE#16⟩,
    ⟨.lQrnEa n, 8, s.ea, s.nextPc, s.ea⟩, ⟨.lQrnEaInc n, 8, s.ea, s.nextPc, (s.ea + 8) &&& 0xFFFE#16⟩]

/-- The eighteen store forms from the general registers (42_load_store.md R282 to R299). -/
def storeForms (s : State) (n m : Reg) (disp dadr : Word) (d6 : BitVec 6) : List Transfer :=
  [⟨.stRnEa n, 1, s.ea, s.nextPc, s.ea⟩, ⟨.stRnEaInc n, 1, s.ea, s.nextPc, s.ea + 1⟩,
    ⟨.stRnErm n m, 1, s.er m, s.nextPc, s.ea⟩, ⟨.stRnDisp16Erm n m disp, 1, s.er m + disp, s.nextPc2, s.ea⟩,
    ⟨.stRnDisp6Bp n d6, 1, s.er 12 + d6.signExtend 16, s.nextPc, s.ea⟩,
    ⟨.stRnDisp6Fp n d6, 1, s.er 14 + d6.signExtend 16, s.nextPc, s.ea⟩, ⟨.stRnDadr n dadr, 1, dadr, s.nextPc2, s.ea⟩,
    ⟨.stErnEa n, 2, s.ea, s.nextPc, s.ea⟩, ⟨.stErnEaInc n, 2, s.ea, s.nextPc, (s.ea + 2) &&& 0xFFFE#16⟩,
    ⟨.stErnErm n m, 2, s.er m, s.nextPc, s.ea⟩, ⟨.stErnDisp16Erm n m disp, 2, s.er m + disp, s.nextPc2, s.ea⟩,
    ⟨.stErnDisp6Bp n d6, 2, s.er 12 + d6.signExtend 16, s.nextPc, s.ea⟩,
    ⟨.stErnDisp6Fp n d6, 2, s.er 14 + d6.signExtend 16, s.nextPc, s.ea⟩, ⟨.stErnDadr n dadr, 2, dadr, s.nextPc2, s.ea⟩,
    ⟨.stXrnEa n, 4, s.ea, s.nextPc, s.ea⟩, ⟨.stXrnEaInc n, 4, s.ea, s.nextPc, (s.ea + 4) &&& 0xFFFE#16⟩,
    ⟨.stQrnEa n, 8, s.ea, s.nextPc, s.ea⟩, ⟨.stQrnEaInc n, 8, s.ea, s.nextPc, (s.ea + 8) &&& 0xFFFE#16⟩]

/-- The eight load forms into the coprocessor registers (45_coprocessor.md R371 to R378). -/
def coLoadForms (s : State) (n : Reg) : List Transfer :=
  [⟨.movCrnEa n, 1, s.ea, s.nextPc, s.ea⟩, ⟨.movCrnEaInc n, 1, s.ea, s.nextPc, s.ea + 1⟩,
    ⟨.movCernEa n, 2, s.ea, s.nextPc, s.ea⟩, ⟨.movCernEaInc n, 2, s.ea, s.nextPc, (s.ea + 2) &&& 0xFFFE#16⟩,
    ⟨.movCxrnEa n, 4, s.ea, s.nextPc, s.ea⟩, ⟨.movCxrnEaInc n, 4, s.ea, s.nextPc, (s.ea + 4) &&& 0xFFFE#16⟩,
    ⟨.movCqrnEa n, 8, s.ea, s.nextPc, s.ea⟩, ⟨.movCqrnEaInc n, 8, s.ea, s.nextPc, (s.ea + 8) &&& 0xFFFE#16⟩]

/-- The eight store forms from the coprocessor registers (45_coprocessor.md R380 to R387). -/
def coStoreForms (s : State) (m : Reg) : List Transfer :=
  [⟨.movEaCrm m, 1, s.ea, s.nextPc, s.ea⟩, ⟨.movEaIncCrm m, 1, s.ea, s.nextPc, s.ea + 1⟩,
    ⟨.movEaCerm m, 2, s.ea, s.nextPc, s.ea⟩, ⟨.movEaIncCerm m, 2, s.ea, s.nextPc, (s.ea + 2) &&& 0xFFFE#16⟩,
    ⟨.movEaCxrm m, 4, s.ea, s.nextPc, s.ea⟩, ⟨.movEaIncCxrm m, 4, s.ea, s.nextPc, (s.ea + 4) &&& 0xFFFE#16⟩,
    ⟨.movEaCqrm m, 8, s.ea, s.nextPc, s.ea⟩, ⟨.movEaIncCqrm m, 8, s.ea, s.nextPc, (s.ea + 8) &&& 0xFFFE#16⟩]

/-- The four instructions that read a byte of data memory and write it back, with its offset (47_bit_psw.md R421, R423,
49_muldiv_misc.md R482, R483). -/
def updateForms (s : State) (bit : BitVec 3) (dadr : Word) : List (Instr × Word) :=
  [(.incEa, s.ea), (.decEa, s.ea), (.sbDbitadr bit dadr, dadr), (.rbDbitadr bit dadr, dadr)]

/-! The stack -/

/-- The frame of a return address, lowest address first; `none` is the byte the spec leaves indeterminate
(44_push_pop.md R352). -/
def returnFrame (s : State) (seg : CodeSeg) (off : Word) : List (Option Byte) :=
  if s.isLarge then [some (off.extractLsb' 0 8), some (off.extractLsb' 8 8), some (seg.zeroExtend 8), none]
  else [some (off.extractLsb' 0 8), some (off.extractLsb' 8 8)]

/-- What `PUSH register_list` puts on the stack, lowest address first: EA, LR, EPSW, ELR, as far as the list `lepa`
names them (44_push_pop.md R344, R350). -/
def pushFrame (s : State) (lepa : BitVec 4) : List (Option Byte) :=
  (if lepa.getLsbD 0 then [some (s.ea.extractLsb' 0 8), some (s.ea.extractLsb' 8 8)] else []) ++
    (if lepa.getLsbD 3 then returnFrame s (s.segRead s.lcsr) s.lr else []) ++
    (if lepa.getLsbD 2 then [s.epsw s.useLevel, none] else []) ++
    (if lepa.getLsbD 1 then returnFrame s (s.ecsr s.useLevel) (s.elr s.useLevel) else [])

/-- The rows of `PUSH register_list` with their list nibble `lepa` (44_push_pop.md R344). -/
def pushLists : List (BitVec 4 × Instr) :=
  [(0x1#4, .pushEa), (0x2#4, .pushElr), (0x3#4, .pushEaElr), (0x4#4, .pushEpsw), (0x5#4, .pushEaEpsw),
    (0x6#4, .pushElrEpsw), (0x7#4, .pushEaElrEpsw), (0x8#4, .pushLr), (0x9#4, .pushEaLr), (0xA#4, .pushElrLr),
    (0xB#4, .pushEaElrLr), (0xC#4, .pushEpswLr), (0xD#4, .pushEaEpswLr), (0xE#4, .pushElrEpswLr),
    (0xF#4, .pushEaElrEpswLr)]

/-- The four PUSH of general registers, with what each puts on the stack, lowest address first (44_push_pop.md R340 to
R343). -/
def pushForms (s : State) (n : Reg) : List (Instr × List (Option Byte)) :=
  [(.pushRn n, [some (s.reg n), none]), (.pushErn n, (s.regs n 2).map some), (.pushXrn n, (s.regs n 4).map some),
    (.pushQrn n, (s.regs n 8).map some)]

/-- The four POP of general registers, with the number of bytes read and the size of the frame (44_push_pop.md R345 to
R348). -/
def popForms (n : Reg) : List (Instr × Nat × Nat) :=
  [(.popRn n, 1, 2), (.popErn n, 2, 2), (.popXrn n, 4, 4), (.popQrn n, 8, 8)]

/-- The rows of `POP register_list` with their list nibble `lepa` (44_push_pop.md R349). -/
def popLists : List (BitVec 4 × Instr) :=
  [(0x1#4, .popEa), (0x2#4, .popPc), (0x3#4, .popEaPc), (0x4#4, .popPsw), (0x5#4, .popEaPsw), (0x6#4, .popPcPsw),
    (0x7#4, .popEaPcPsw), (0x8#4, .popLr), (0x9#4, .popEaLr), (0xA#4, .popPcLr), (0xB#4, .popEaPcLr),
    (0xC#4, .popPswLr), (0xD#4, .popEaPswLr), (0xE#4, .popPcPswLr), (0xF#4, .popEaPcPswLr)]

/-- The size of a return-address frame (44_push_pop.md R352). -/
def returnSize (s : State) : Nat := if s.isLarge then 4 else 2

/-- Where the LR, PSW and PC items of `POP register_list` begin, above SP, and where the frame ends: the order is EA,
LR, PSW, PC (44_push_pop.md R349). -/
def popOffsets (s : State) (lepa : BitVec 4) : Nat × Nat × Nat × Nat :=
  let lr := if lepa.getLsbD 0 then 2 else 0
  let psw := lr + if lepa.getLsbD 3 then returnSize s else 0
  let pc := psw + if lepa.getLsbD 2 then 2 else 0
  (lr, psw, pc, pc + if lepa.getLsbD 1 then returnSize s else 0)

/-- The bytes `POP register_list` reads of a return-address frame that begins `i` bytes above SP: the dummy byte is not
read (44_push_pop.md R353). -/
def returnReads (s : State) (i : Nat) : List Nat := if s.isLarge then [i, i + 1, i + 2] else [i, i + 1]

/-- The bytes `POP register_list` reads, counted from SP, in order. -/
def popReads (s : State) (lepa : BitVec 4) : List Nat :=
  (if lepa.getLsbD 0 then [0, 1] else []) ++
    (if lepa.getLsbD 3 then returnReads s (popOffsets s lepa).1 else []) ++
    (if lepa.getLsbD 2 then [(popOffsets s lepa).2.1] else []) ++
    (if lepa.getLsbD 1 then returnReads s (popOffsets s lepa).2.2.1 else [])

/-- The memory keys of the stack bytes that lie the listed distances above SP. -/
def stackKeys (s : State) (is : List Nat) : List Nat := is.map fun i => dataKey s.dev 0 (s.sp + BitVec.ofNat 16 i)

/-- MEMMAP has readable memory at the stack bytes that lie the listed distances above SP. -/
def stackReadable (s : State) (is : List Nat) : Prop :=
  ∀ i ∈ is, canRead s.dev (dataKey s.dev 0 (s.sp + BitVec.ofNat 16 i)) = true

/-- The stack byte `i` bytes above SP. -/
def stackByte (s : State) (i : Nat) : Byte := s.mem.read (dataKey s.dev 0 (s.sp + BitVec.ofNat 16 i))

/-- The stack word `i` bytes above SP, the lower byte first. -/
def stackWord (s : State) (i : Nat) : Word := stackByte s (i + 1) ++ stackByte s i

/-- Pushes of a frame took `s` to `t` at the end of the instruction: SP is lower by the size of the frame, the stack holds
its bytes from SP upwards (`none` is a free byte, one draw each), AR has latched SP; everything else is as before
(44_push_pop.md R351, R353). -/
def pushed (s t : State) (frame : List (Option Byte)) : Prop :=
  continuesAt s t s.nextPc ∧ (∀ i b, frame[i]? = some (some b) → stackByte t i = b) ∧
    sameMemBut s t (keysOf s.dev 0 (s.sp - BitVec.ofNat 16 frame.length) frame.length) ∧
    t.psw = s.psw ∧ sameRegsBut s t [] ∧
    t.special =
      { s.special with
        sp := s.sp - BitVec.ofNat 16 frame.length
        ar := s.sp - BitVec.ofNat 16 frame.length
        draws := s.draws + frame.countP (·.isNone) }

/-- Pushes of a frame took `s` to `t`, devices taking some of its bytes: as `pushed`, but that writable memory alone holds
its bytes. -/
def pushedTaken (s t : State) (frame : List (Option Byte)) : Prop :=
  continuesAt s t s.nextPc ∧
    (∀ i b, frame[i]? = some (some b) → kindAt s.dev (dataKey s.dev 0 (t.sp + BitVec.ofNat 16 i)) = some .ram →
      stackByte t i = b) ∧
    sameMemBut s t ((keysOf s.dev 0 (s.sp - BitVec.ofNat 16 frame.length) frame.length).filter fun x =>
      kindAt s.dev x == some .ram) ∧
    t.psw = s.psw ∧ sameRegsBut s t [] ∧
    t.special =
      { s.special with
        sp := s.sp - BitVec.ofNat 16 frame.length
        ar := s.sp - BitVec.ofNat 16 frame.length
        draws := s.draws + frame.countP (·.isNone) }

/-- A pop of the group of `k` registers at `R[n]` took `s` to `t`, SP moving up by `size` (44_push_pop.md R351, R353). -/
def popped (s t : State) (n : Reg) (k size : Nat) : Prop :=
  continuesAt s t s.nextPc ∧ t.regs n k = bytesAt s 0 s.sp k ∧ sameRegsBut s t (groupOf n k) ∧ sameMemBut s t [] ∧
    t.psw = s.psw ∧
    t.special = { s.special with sp := s.sp + BitVec.ofNat 16 size, ar := s.sp + BitVec.ofNat 16 (k - 1) }

/-- What `POP register_list` with the list nibble `lepa` does (44_push_pop.md R349, R352): EA, LR with LCSR, PSW and PC
with CSR, as far as they are named, hold their items; the segment registers change in the LARGE model only. -/
def poppedList (s t : State) (lepa : BitVec 4) : Prop :=
  let at' := popOffsets s lepa
  continuesAt s t (if lepa.getLsbD 1 then stackWord s at'.2.2.1 else s.nextPc) ∧
    t.psw = (if lepa.getLsbD 2 then stackByte s at'.2.1 else s.psw) ∧ sameRegsBut s t [] ∧ sameMemBut s t [] ∧
    t.special =
      { s.special with
        ea := if lepa.getLsbD 0 then stackWord s 0 else s.ea
        lr := if lepa.getLsbD 3 then stackWord s at'.1 &&& 0xFFFE#16 else s.lr
        lcsr := if lepa.getLsbD 3 && s.isLarge then (stackByte s (at'.1 + 2)).extractLsb' 0 4 else s.lcsr
        csr := if lepa.getLsbD 1 && s.isLarge then (stackByte s (at'.2.2.1 + 2)).extractLsb' 0 4 else s.csr
        sp := s.sp + BitVec.ofNat 16 at'.2.2.2
        ar := s.sp + BitVec.ofNat 16 ((popReads s lepa).getLastD 0) }

/-! Results -/

/-- The status word `q` after the addition `a + b + cin` from the status word `p`, with Z given: C is the carry out of
the top bit, S the top bit, OV says that the signed sum does not fit, HC is the carry into the top four bits; MIE and
ELEVEL stay (00_scope.md R28). -/
def addFlags {w : Nat} (p q : Byte) (a b : BitVec w) (cin z : Bool) : Prop :=
  pswIs q (decide (2 ^ w ≤ a.toNat + b.toNat + cin.toNat)) z (BitVec.ofNat w (a.toNat + b.toNat + cin.toNat)).msb
    (decide (a.toInt + b.toInt + cin.toNat < -2 ^ (w - 1) ∨ 2 ^ (w - 1) ≤ a.toInt + b.toInt + cin.toNat)) (flagMIE p)
    (decide (2 ^ (w - 4) ≤ a.toNat % 2 ^ (w - 4) + b.toNat % 2 ^ (w - 4) + cin.toNat)) (elevelOf p)

/-- The status word `q` after the subtraction `a - b - bin` from the status word `p`, with Z given: C is the borrow, S
the top bit, OV says that the signed difference does not fit, HC is the borrow out of the bits below the top four
(00_scope.md R29). -/
def subFlags {w : Nat} (p q : Byte) (a b : BitVec w) (bin z : Bool) : Prop :=
  pswIs q (decide (a.toNat < b.toNat + bin.toNat)) z (BitVec.ofInt w (a.toNat - b.toNat - bin.toNat)).msb
    (decide (a.toInt - b.toInt - bin.toNat < -2 ^ (w - 1) ∨ 2 ^ (w - 1) ≤ a.toInt - b.toInt - bin.toNat)) (flagMIE p)
    (decide (a.toNat % 2 ^ (w - 4) < b.toNat % 2 ^ (w - 4) + bin.toNat)) (elevelOf p)

/-- The status word `q` is `p` with Z and S replaced. -/
def zsFlags (p q : Byte) (z sg : Bool) : Prop :=
  pswIs q (flagC p) z sg (flagOV p) (flagMIE p) (flagHC p) (elevelOf p)

/-- The status word `q` is `p` with C replaced. -/
def cFlag (p q : Byte) (c : Bool) : Prop :=
  pswIs q c (flagZ p) (flagS p) (flagOV p) (flagMIE p) (flagHC p) (elevelOf p)

/-- The status word `q` is `p` with Z replaced. -/
def zFlag (p q : Byte) (z : Bool) : Prop :=
  pswIs q (flagC p) z (flagS p) (flagOV p) (flagMIE p) (flagHC p) (elevelOf p)

/-- `Rn <- Rn + b + cin` took `s` to `t`; a sticky Z stays 1 only if it was 1 (40_arithmetic.md R200, R204). -/
def addedByte (s t : State) (n : Reg) (b : Byte) (cin sticky : Bool) : Prop :=
  onlyRegs s t s.nextPc [n] ∧ t.reg n = BitVec.ofNat 8 ((s.reg n).toNat + b.toNat + cin.toNat) ∧
    addFlags s.psw t.psw (s.reg n) b cin (decide (t.reg n = 0) && (!sticky || flagZ s.psw))

/-- `Rn <- a - b - bin` took `s` to `t` (40_arithmetic.md R216, R217, 46_lea_alu.md R405). -/
def subtractedByte (s t : State) (n : Reg) (a b : Byte) (bin sticky : Bool) : Prop :=
  onlyRegs s t s.nextPc [n] ∧ t.reg n = BitVec.ofInt 8 (a.toNat - b.toNat - bin.toNat) ∧
    subFlags s.psw t.psw a b bin (decide (t.reg n = 0) && (!sticky || flagZ s.psw))

/-- A comparison of `a` with `b` took `s` to `t`: the flags of `a - b - bin`, nothing else (40_arithmetic.md R206, R208,
R222). -/
def compared {w : Nat} (s t : State) (a b : BitVec w) (bin sticky : Bool) : Prop :=
  onlyRegs s t s.nextPc [] ∧
    subFlags s.psw t.psw a b bin
      (decide (BitVec.ofInt w (a.toNat - b.toNat - bin.toNat) = 0) && (!sticky || flagZ s.psw))

/-- `Rn <- v` with Z and S of `v` took `s` to `t`. -/
def wroteByte (s t : State) (n : Reg) (v : Byte) : Prop :=
  onlyRegs s t s.nextPc [n] ∧ t.reg n = v ∧ zsFlags s.psw t.psw (decide (v = 0)) v.msb

/-- `ERn <- v` with Z and S of `v` took `s` to `t`. -/
def wroteWord (s t : State) (n : Reg) (v : Word) : Prop :=
  onlyRegs s t s.nextPc [n, n + 1] ∧ t.er n = v ∧ zsFlags s.psw t.psw (decide (v = 0)) v.msb

/-- `ERn <- ERn + b` took `s` to `t` (40_arithmetic.md R220). -/
def addedWord (s t : State) (n : Reg) (b : Word) : Prop :=
  onlyRegs s t s.nextPc [n, n + 1] ∧ t.er n = BitVec.ofNat 16 ((s.er n).toNat + b.toNat) ∧
    addFlags s.psw t.psw (s.er n) b false (decide (t.er n = 0))

/-- A shift of Rn by `k` places took `s` to `t`: nothing but the end of the instruction for k = 0, otherwise Rn and C
(41_shift.md R240). -/
def shifted (s t : State) (n : Reg) (k : Nat) (v : Byte) (c : Bool) : Prop :=
  onlyRegs s t s.nextPc [n] ∧
    if k = 0 then t.reg n = s.reg n ∧ t.psw = s.psw else t.reg n = v ∧ cFlag s.psw t.psw c

/-- A DSR prefix word took `s` to `t`: DSR is `seg`, PFX and the IBLOCK of R260 are set, everything else, the IBLOCK of
R506 with it, is as at the end of any instruction (20_memory.md R121, 42_load_store.md R260, 60_exceptions.md R506). -/
def prefixed (s t : State) (seg : Byte) : Prop :=
  t.pfx = true ∧ t.iblock = true ∧
    onlyRegs { s with dsr := seg } { t with pfx := false, iblock := false } s.nextPc [] ∧ t.psw = s.psw

/-- The special registers with the ELR of level `k` replaced (10_state.md R66). -/
def Special.withElr (x : Special) (k : Level) (v : Word) : Special :=
  if k = 0#2 then { x with lr := v } else if k = 1#2 then { x with elr1 := v }
  else if k = 2#2 then { x with elr2 := v } else { x with elr3 := v }

/-- The special registers with the ECSR of level `k` replaced (10_state.md R66). -/
def Special.withEcsr (x : Special) (k : Level) (v : CodeSeg) : Special :=
  if k = 0#2 then { x with lcsr := v } else if k = 1#2 then { x with ecsr1 := v }
  else if k = 2#2 then { x with ecsr2 := v } else { x with ecsr3 := v }

/-- The special registers with the EPSW of level `k` replaced; there is none at level 0 (10_state.md R66). -/
def Special.withEpsw (x : Special) (k : Level) (v : Byte) : Special :=
  if k = 0#2 then x else if k = 1#2 then { x with epsw1 := v }
  else if k = 2#2 then { x with epsw2 := v } else { x with epsw3 := v }

/-- From `s` to `t` the instruction changed, beside the end of the instruction, the special registers only, which now
are `x`. -/
def onlySpecial (s t : State) (off : Word) (x : Special) : Prop :=
  continuesAt s t off ∧ sameRegsBut s t [] ∧ sameMemBut s t [] ∧ t.special = x ∧ t.psw = s.psw

/-- The entry to level `k` by the vector at `vec` took `s` to `t` (60_exceptions.md R510): the backup registers of the
level hold the return address, the old CSR (in the LARGE model) and `saved`; ELEVEL is `k`, MIE is `mie`; CSR is 0 and
PC the vector word with bit 0 dropped; both block latches are set; nothing else has changed. -/
def entered (s t : State) (k : Level) (vec ret : Word) (mie : Bool) (saved : Byte) : Prop :=
  t.pc = codeWordAt s 0 (vec &&& 0xFFFE#16) &&& 0xFFFE#16 ∧
    pswIs t.psw (flagC s.psw) (flagZ s.psw) (flagS s.psw) (flagOV s.psw) mie (flagHC s.psw) k ∧
    t.special =
      (((if s.isLarge then { s.special.withEcsr k s.csr with csr := 0 } else s.special).withElr k
        (ret &&& 0xFFFE#16)).withEpsw k saved) ∧
    sameRegsBut s t [] ∧ sameMemBut s t [] ∧ t.iblock = true ∧ t.entryBlock = true ∧ t.pfx = false ∧
    t.levelView = none ∧
    t.eiWindow = s.eiWindow - 1 ∧ t.mieWindow = s.mieWindow - 1

/-- The reset sequence took `s` to `t` (70_reset_and_hazards.md R560): the five registers the spec gives a value, the
latches; memory, the pending requests and the device are as before. Of every other register nothing is said. -/
def wasReset (s t : State) : Prop :=
  t.psw = 0 ∧ t.csr = 0 ∧ t.dsr = 0 ∧ t.sp = codeWordAt s 0 0 ∧ t.pc = codeWordAt s 0 2 &&& 0xFFFE#16 ∧
    t.iblock = true ∧ t.entryBlock = true ∧ t.pfx = false ∧ sameMemBut s t [] ∧ t.req = s.req ∧ t.dev = s.dev

/-- A relative branch took `s` to `t`: to NextPC plus twice the signed displacement where it is taken, else to NextPC;
nothing else changes (48_branch.md R440). -/
def branched (s t : State) (taken : Bool) (disp : BitVec 8) : Prop :=
  onlyRegs s t (if taken then s.pc + 2 + 2#16 * disp.signExtend 16 else s.pc + 2) [] ∧ t.psw = s.psw

/-- `i` run at `t` branches by `disp` exactly if `taken`. -/
def branchesIf (t : State) (i : Instr) (disp : BitVec 8) (taken : Prop) : Prop :=
  ∃ u, exec i t = .next u ∧
    (taken → u.pc = (t.pc + 2 + 2#16 * disp.signExtend 16) &&& 0xFFFE#16) ∧ (¬ taken → u.pc = (t.pc + 2) &&& 0xFFFE#16)

/-- The ten branches of the Meaning column of 48_branch.md R440, run at `t`, decide the order of `a` and `b`. -/
def branchesByOrder {w : Nat} (t : State) (a b : BitVec w) (disp : BitVec 8) : Prop :=
  branchesIf t (.bgeRadr disp) disp (b.toNat ≤ a.toNat) ∧ branchesIf t (.bltRadr disp) disp (a.toNat < b.toNat) ∧
    branchesIf t (.bgtRadr disp) disp (b.toNat < a.toNat) ∧ branchesIf t (.bleRadr disp) disp (a.toNat ≤ b.toNat) ∧
    branchesIf t (.bgesRadr disp) disp (b.toInt ≤ a.toInt) ∧ branchesIf t (.bltsRadr disp) disp (a.toInt < b.toInt) ∧
    branchesIf t (.bgtsRadr disp) disp (b.toInt < a.toInt) ∧ branchesIf t (.blesRadr disp) disp (a.toInt ≤ b.toInt) ∧
    branchesIf t (.bneRadr disp) disp (a ≠ b) ∧ branchesIf t (.beqRadr disp) disp (a = b)

/-- A row of the DAA and DAS tables (46_lea_alu.md R403, R404): the old C, the range of the upper nibble, the old HC, the
range of the lower nibble, the adjustment. -/
structure AdjustRow where
  c : Bool
  hi : Nat × Nat
  hc : Bool
  lo : Nat × Nat
  adj : Byte
  deriving DecidableEq, Repr

/-- Whether a row is the one for a byte and the old C and HC. -/
def AdjustRow.fits (x : AdjustRow) (c hc : Bool) (v : Byte) : Prop :=
  x.c = c ∧ x.hc = hc ∧ x.hi.1 ≤ v.toNat / 16 ∧ v.toNat / 16 ≤ x.hi.2 ∧ x.lo.1 ≤ v.toNat % 16 ∧ v.toNat % 16 ≤ x.lo.2

/-- The table of DAA, with the C flag after adjustment (46_lea_alu.md R403). -/
def daaRows : List (AdjustRow × Bool) :=
  [(⟨false, (0, 9), false, (0, 9), 0x00#8⟩, false), (⟨false, (0, 8), false, (10, 15), 0x06#8⟩, false),
    (⟨false, (0, 9), true, (0, 15), 0x06#8⟩, false), (⟨false, (10, 15), false, (0, 9), 0x60#8⟩, true),
    (⟨false, (9, 15), false, (10, 15), 0x66#8⟩, true), (⟨false, (10, 15), true, (0, 15), 0x66#8⟩, true),
    (⟨true, (0, 15), false, (0, 9), 0x60#8⟩, true), (⟨true, (0, 15), false, (10, 15), 0x66#8⟩, true),
    (⟨true, (0, 15), true, (0, 15), 0x66#8⟩, true)]

/-- The table of DAS (46_lea_alu.md R404). -/
def dasRows : List AdjustRow :=
  [⟨false, (0, 9), false, (0, 9), 0x00#8⟩, ⟨false, (0, 9), false, (10, 15), 0x06#8⟩,
    ⟨false, (0, 9), true, (0, 15), 0x06#8⟩, ⟨false, (10, 15), false, (0, 9), 0x60#8⟩,
    ⟨false, (10, 15), true, (0, 15), 0x66#8⟩, ⟨false, (10, 15), false, (10, 15), 0x66#8⟩,
    ⟨true, (0, 15), false, (0, 9), 0x60#8⟩, ⟨true, (0, 15), true, (0, 15), 0x66#8⟩,
    ⟨true, (0, 15), false, (10, 15), 0x66#8⟩]

/-- A byte of two decimal digits. -/
def isBcd (v : Byte) : Prop := v.toNat / 16 ≤ 9 ∧ v.toNat % 16 ≤ 9

/-- The number two decimal digits stand for. -/
def bcdValue (v : Byte) : Nat := 10 * (v.toNat / 16) + v.toNat % 16

/-- The contents of the group of `k` coprocessor registers at `CR[n]` (10_state.md R75). -/
def cregsOf (s : State) (n : Reg) (k : Nat) : List Byte := (List.range k).map fun i => s.creg (n + BitVec.ofNat 4 i)

/-- A load of the `k` coprocessor registers at `CR[n]` through EA took `s` to `t` (45_coprocessor.md R371 to R378). -/
def coLoaded (s t : State) (n : Reg) (k : Nat) (ea : Word) : Prop :=
  continuesAt s t s.nextPc ∧ cregsOf t n k = bytesAt s s.dseg (alignOff k s.ea) k ∧
    (∀ x, x ∉ groupOf n k → t.creg x = s.creg x) ∧ sameRegsBut s t [] ∧ sameMemBut s t [] ∧ t.psw = s.psw ∧
    t.special = { s.special with cr := t.cr, ea := ea, ar := s.ea }

/-- A store of the `k` coprocessor registers at `CR[m]` through EA took `s` to `t`, memory-mapped devices taking some of
the bytes: as `coStored`, but for `takenAt`. -/
def coTaken (s t : State) (m : Reg) (k : Nat) (ea : Word) : Prop :=
  continuesAt s t s.nextPc ∧ sameRegsBut s t [] ∧ t.psw = s.psw ∧
    (∃ bytes : List Byte, bytes.length = k ∧ (s.dev.coprocessor = .storage → bytes = cregsOf s m k) ∧
      takenAt s t s.dseg (alignOff k s.ea) bytes) ∧
    t.special =
      { s.special with
        ea := ea
        ar := s.ea
        codeStores := t.codeStores
        draws := s.draws + if s.dev.coprocessor = .device then k else 0 }

/-- A store of the `k` coprocessor registers at `CR[m]` through EA took `s` to `t` (45_coprocessor.md R380 to R388): the
bytes are the contents of the registers, or, where a device owns them, bytes of which nothing is said. -/
def coStored (s t : State) (m : Reg) (k : Nat) (ea : Word) : Prop :=
  continuesAt s t s.nextPc ∧ sameRegsBut s t [] ∧ t.psw = s.psw ∧
    (∃ bytes : List Byte, bytes.length = k ∧ (s.dev.coprocessor = .storage → bytes = cregsOf s m k) ∧
      storedAt s t s.dseg (alignOff k s.ea) bytes) ∧
    t.special =
      { s.special with
        ea := ea
        ar := s.ea
        codeStores := t.codeStores
        draws := s.draws + if s.dev.coprocessor = .device then k else 0 }

/-! Interrupts -/

/-- The interrupt level of a request (60_exceptions.md R502). -/
def levelOf : Request → Nat
  | .nmice => 3
  | .nmi => 2
  | .mi _ => 1

/-- The vector address of a request (20_memory.md R109). -/
def vectorOf : Request → Word
  | .nmice => 0x0006#16
  | .nmi => 0x0008#16
  | .mi v => miVector v

/-- Whether a request is acceptable (60_exceptions.md R507, R503), at the level the test uses (ELEVEL, but for the draw
of 70_reset_and_hazards.md R578), where no window of R576 and R577 is open. -/
def acceptable (s : State) : Request → Prop
  | .nmice => s.dev.hasNmice = true
  | .nmi => s.useLevel.toNat ≤ 2
  | .mi v => flagMIE s.psw = true ∧ s.useLevel.toNat ≤ 1 ∧ v ∈ s.dev.miSources

/-- Nothing blocks at the boundary of `s` (60_exceptions.md R506). -/
def unblocked (s : State) : Prop :=
  s.resetIn = false ∧ s.iblock = false ∧ s.entryBlock = false ∧ s.pfx = false

/-- No window of 70_reset_and_hazards.md R576 and R577 is open. -/
def noWindow (s : State) : Prop := s.eiWindow = 0 ∧ s.mieWindow = 0

/-- The three DSR prefix words (20_memory.md R120). -/
def isPrefix (i : Instr) : Prop := (∃ imm, i = .dsrPrefixImm8 imm) ∨ (∃ d, i = .dsrPrefixRd d) ∨ i = .dsrPrefixDsr

/-! The invariant -/

/-- What every step keeps: memory in its canonical form, the store record a rising list, bit 0 of PC, LR and ELR1 to
ELR3 clear (10_state.md R58, R63), the IBLOCK of R78 set exactly if one of the two latches of 60_exceptions.md R506 is
and these never both (R77, R78, log 28), no request pending twice (60_exceptions.md R504), the windows at most two boundaries long (70_reset_and_hazards.md R576, R577), and in the SMALL
model CSR and its backup registers 0 (R68). -/
structure Inv (s : State) : Prop where
  mem : s.mem.wf
  stores : s.codeStores.wf
  pc : s.pc &&& 0xFFFE#16 = s.pc
  lr : s.lr &&& 0xFFFE#16 = s.lr
  elr1 : s.elr1 &&& 0xFFFE#16 = s.elr1
  elr2 : s.elr2 &&& 0xFFFE#16 = s.elr2
  elr3 : s.elr3 &&& 0xFFFE#16 = s.elr3
  latches : s.iblock = (s.entryBlock || s.pfx) ∧ (s.pfx = true → s.entryBlock = false)
  req : s.req.Nodup
  windows : s.eiWindow ≤ 2 ∧ s.mieWindow ≤ 2
  small : s.isLarge = false → s.csr = 0 ∧ s.lcsr = 0 ∧ s.ecsr1 = 0 ∧ s.ecsr2 = 0 ∧ s.ecsr3 = 0

end Sys2Proof.Machine
end

