-- ==== Sys2Proof/Certificates/Slice0/Obligations.lean ====
section
/-! DEFINITION. The statements for the provers. Each docstring is the statement in words; OBLIGATIONS.json lists them. -/
section

open Sys2Proof Sys2Proof.Machine

/-- In State.reset PSW, CSR and DSR are 0, the prefix latch is clear, the interrupt block latch is set (in both senses
the spec gives it, log 28), SP is the word at code address 0:0000H and PC the word at code address 0:0002H with bit 0
dropped. Only the values the table of R85 states are named; the values of the other registers are the model's choice
(log 2) and are not part of this statement. -/
def Obligations.ResetStateValues : Prop :=
  State.reset.psw = 0 ∧ State.reset.csr = 0 ∧ State.reset.dsr = 0 ∧ State.reset.pfx = false ∧
    State.reset.iblock = true ∧ State.reset.entryBlock = true ∧ State.reset.sp = codeWordAt State.reset 0 0x0000#16 ∧
    State.reset.pc = codeWordAt State.reset 0 0x0002#16 &&& 0xFFFE#16

/-- State.reset meets the invariant Inv: memory is in its canonical form, the store record is a rising list, bit 0 of
PC, LR and ELR1 to ELR3 is 0, the IBLOCK of R78 is set exactly if one of the two latches of R506 is and these are not
both set (log 28), no request is pending twice, the windows of R576 and R577 are at most two boundaries long, and in
the SMALL model CSR and its backup registers are 0. What rests on choices: memory with nothing listed (log 3); the 0
in LR, ELR1 to ELR3, LCSR and ECSR1 to ECSR3 (R85 gives no value, log 2), that bit 0 of LR and ELRk is 0 in every
state (R63, decision D10 of the spec, log 17) and the SMALL registers (R68, decision D8, log 16; the example device of
State.reset is LARGE, log 1); the store record (R148, decision D18, log 15), the pending requests, none at reset
(R504, log 10), and the windows (logs 11, 12), which are the model's own fields. -/
def Obligations.ResetMeetsInvariant : Prop :=
  Inv State.reset

/-- For every state s that meets Inv, if step s answers a next state t (a reset, an acceptance or an instruction),
then t meets Inv: memory stays in its canonical form, the store record stays a rising list, bit 0 of PC stays 0, bit 0
of LR and ELR1 to ELR3 stays 0 (R63, decision D10 of the spec, log 17), the IBLOCK of R78 and R260 stays set exactly
if one of the two latches of R506, its IBLOCK and PFX, is, and these are never both set (the spec uses one name for
two latches, and the model holds both, log 28), no request is pending twice (REQ is a set, R504, log 10), the windows
of R576 and R577 stay at most two boundaries long, and in the SMALL model CSR, LCSR and ECSR1 to ECSR3 stay 0 (R68,
decision D8 of the spec, log 16). The store record (R148, decision D18, log 15) and the windows (logs 11, 12) are the
model's own fields. -/
def Obligations.StepKeepsInvariant : Prop :=
  ∀ s t : State, Inv s → step s = .next t → Inv t

/-- For every state s, if step s answers a next state t, then the device parameters of t are those of s, every request
pending in t was pending in s, the reset input is not asserted in t unless it was in s, and every byte the store
record of s remembers is still remembered in t. That a step removes requests and the reset input only, never adds one,
is the model's reading of the environment (log 10). The store record is the model's own field, its form of R148
(decision D18 of the spec); that it only grows, across a reset too, is the model's choice (logs 5, 15). -/
def Obligations.StepKeepsDevice : Prop :=
  ∀ s t : State, step s = .next t →
    t.dev = s.dev ∧ (∀ q ∈ t.req, q ∈ s.req) ∧ (t.resetIn = true → s.resetIn = true) ∧
      ∀ k ∈ s.codeStores, k ∈ t.codeStores

/-- If the boundary of s leads to an instruction at u (s itself, or s after a free choice was drawn for a request left
pending), PC of u is even, the bytes at CSR:PC can be fetched (code memory is present there and no store has written
them) and they decode to the instruction i of that length, then step s is exec i u. exec i does everything else: PC
moves past the words of i, the latches and windows are updated. -/
def Obligations.StepRunsDecodedInstruction : Prop :=
  ∀ (s u : State) (i : Instr), s.boundary = .run u → u.pc &&& 0xFFFE#16 = u.pc →
    fetchable u u.fetchSeg u.pc i.size →
    decode ((codeKeysOf u.fetchSeg u.pc i.size).map u.mem.read) = .ok (i, []) → step s = exec i u

/-- FETCH. A code byte stops its fetch where MEMMAP has no code memory (fault fetchAbsent) or, if it has, where a
store has written it (refusal selfModifyingCode); of several bytes the first that stops decides. This holds of both
bytes of the first word of an instruction and of both bytes of the second word of a two-word one (step at an even PC),
of the vector word of an accepted request, of SWI and of BRK at a level of 0 or 1, and of the four bytes of the reset
vectors (reset input, BRK at a level of 2 or 3). A first word that can be fetched and matches no row is the refusal
unlistedEncoding. DATA. Every load of general or (where one is fitted) coprocessor registers, POP of general
registers, POP register_list, TB Dbitadr, INC, DEC, SB and RB on memory is the fault readAbsent where MEMMAP has
nothing at some byte it reads. A byte stops its write inside the ROM window (fault writeRomWindow) or, outside it,
where MEMMAP has nothing, read-only memory or a read-only device (R11; fault writeAbsent). The first byte that stops
decides: in rising order for every store of general or coprocessor registers, from the byte below SP downwards for
PUSH of general registers and for PUSH register_list (with the backup registers it names present); and for the byte
INC, DEC, SB and RB write back where it can be read. That a stop is a fault or a refusal is the model's form of
UNDEFINED (log 7); R148 (D18, log 15) and R115, the wrap of offsets (D13, log 26), are decisions of the spec; that a
fetch from a device region is fetchAbsent is the model's choice (logs 9, 37), and which byte is looked at first its
reading (log 26). The frames of PUSH and POP register_list, their dummy bytes and the EPSW and ELR items at level 0
are decisions of the spec (R350, R352, R353, D21 to D23, logs 18 to 20); so are the level of BRK after a MOV PSW
(R578, log 13) and the boundary at which the reset input acts (R560, log 36). -/
def Obligations.AccessStops : Prop :=
  (∀ s u : State, s.boundary = .run u → u.pc &&& 0xFFFE#16 = u.pc →
    (∀ e, fetchStops u u.fetchSeg u.pc 2 = some e → step s = e) ∧
      (fetchable u u.fetchSeg u.pc 2 → decodeWords (codeWordAt u u.fetchSeg u.pc) 0 = none →
        step s = .refused .unlistedEncoding) ∧
      ∀ i e, fetchable u u.fetchSeg u.pc 2 → decodeWords (codeWordAt u u.fetchSeg u.pc) 0 = some i →
        i.isTwoWord = true → fetchStops u u.fetchSeg (u.pc + 2) 2 = some e → step s = e) ∧
  (∀ (s : State) (e : Res State),
    (∀ q u, s.boundary = .accept q u → u.levelPresent (BitVec.ofNat 2 (levelOf q)) = true →
      fetchStops u 0 (vectorOf q) 2 = some e → step s = e) ∧
    (∀ snum : BitVec 6, fetchStops s 0 (0x0080#16 + 2#16 * snum.zeroExtend 16) 2 = some e → exec (.swiSnum snum) s = e) ∧
    (s.useLevel.toNat ≤ 1 → fetchStops s 0 0x0004#16 2 = some e → exec .brk s = e) ∧
    (fetchStops s 0 0x0000#16 4 = some e →
      (s.resetIn = true → step s = e) ∧ (2 ≤ s.useLevel.toNat → exec .brk s = e))) ∧
  (∀ (s : State) (n m : Reg) (disp dadr : Word) (d6 : BitVec 6) (bit : BitVec 3),
    (∀ x ∈ loadForms s n m disp dadr d6, someAbsent s s.dseg (alignOff x.size x.off) x.size →
      exec x.instr s = .fault .readAbsent) ∧
    (s.dev.coprocessor ≠ .absent → ∀ x ∈ coLoadForms s n, someAbsent s s.dseg (alignOff x.size x.off) x.size →
      exec x.instr s = .fault .readAbsent) ∧
    (∀ x ∈ (.tbDbitadr bit dadr, dadr) :: updateForms s bit dadr, someAbsent s s.dseg x.2 1 →
      exec x.1 s = .fault .readAbsent) ∧
    (∀ x ∈ popForms n, someAbsent s 0 s.sp x.2.1 → exec x.1 s = .fault .readAbsent) ∧
    ∀ p ∈ popLists, (∃ x ∈ stackKeys s (popReads s p.1), kindAt s.dev x = none) → exec p.2 s = .fault .readAbsent) ∧
  ∀ (s : State) (n m : Reg) (disp dadr : Word) (d6 : BitVec 6) (bit : BitVec 3) (e : Res State),
    (∀ x ∈ storeForms s n m disp dadr d6, writeStops s s.dseg (alignOff x.size x.off) x.size = some e →
      exec x.instr s = e) ∧
    (s.dev.coprocessor ≠ .absent → ∀ x ∈ coStoreForms s m,
      writeStops s s.dseg (alignOff x.size x.off) x.size = some e → exec x.instr s = e) ∧
    (∀ x ∈ updateForms s bit dadr, answered s s.dseg x.2 1 → writeStops s s.dseg x.2 1 = some e → exec x.1 s = e) ∧
    (∀ x ∈ pushForms s n, pushStops s x.2.length = some e → exec x.1 s = e) ∧
    ∀ p ∈ pushLists, (p.1.getLsbD 1 = true ∨ p.1.getLsbD 2 = true → s.levelPresent s.useLevel = true) →
      pushStops s (pushFrame s p.1).length = some e → exec p.2 s = e

/-- For every well-formed instruction i and every list of bytes that follows, decoding the bytes of encode i with
those bytes after them gives i and leaves exactly those bytes. -/
def Obligations.DecodeOfEncodedInstruction : Prop :=
  ∀ (i : Instr) (rest : List Byte), i.wf = true → decode (encodeBytes i ++ rest) = .ok (i, rest)

/-- For every first word w1 and second word w2: if they decode to an instruction i, then i is well-formed and encode i
is the list of w1 alone, or of w1 and w2 where i has two words. So no accepted word is read with a bit ignored, and no
two instructions share a word. -/
def Obligations.DecodedWordsEncodeBack : Prop :=
  ∀ (w1 w2 : Word) (i : Instr), decodeWords w1 w2 = some i →
    i.wf = true ∧ encode i = if i.isTwoWord then [w1, w2] else [w1]

/-- Words the rules give as examples decode to the instruction they stand for: 8011H, E040H, E0FFH, 927AH, 901FH,
D087H, A12AH, F6CEH, 832FH, A0B0H 1234H, F500H 1235H and E53FH. That E0FFH, with bit 7 set, is ADD ER0,#-1 (R221)
rests on R167, which derives bit 7 = 1 of ADD ERn,#imm7: the spec's own choice among the readings (C2 of
90_conflicts.md). That 901FH has a register nibble of four bits is its resolution C4, and the bit nibbles of A0B0H and
its like are those of the pages (C3). -/
def Obligations.SampleWordsDecode : Prop :=
  decodeWords 0x8011#16 0 = some (.addRnRm 0 1) ∧ decodeWords 0xE040#16 0 = some (.movErnImm7 0 0x40#7) ∧
    decodeWords 0xE0FF#16 0 = some (.addErnImm7 0 0x7F#7) ∧ decodeWords 0x927A#16 0 = some (.sllRnWidth 2 7) ∧
    decodeWords 0x901F#16 0 = some (.dsrPrefixRd 1) ∧ decodeWords 0xD087#16 0 = some (.stRnDisp6Bp 0 7) ∧
    decodeWords 0xA12A#16 0 = some (.movSpErm 2) ∧ decodeWords 0xF6CE#16 0 = some .pushElrEpsw ∧
    decodeWords 0x832F#16 0 = some .extbwEr2 ∧ decodeWords 0xA0B0#16 0x1234#16 = some (.sbDbitadr 3 0x1234#16) ∧
    decodeWords 0xF500#16 0x1235#16 = some (.bCadr 5 0x1235#16) ∧ decodeWords 0xE53F#16 0 = some (.swiSnum 63)

/-- ADD Rn,Rm, ADD Rn,#imm8, ADDC Rn,Rm and ADDC Rn,#imm8 have the words 8nm1H, 1nH imm8, 8nm6H and 6nH imm8 and
always answer a next state: Rn is the 8-bit sum (with C for ADDC), C is the carry out of bit 7, S bit 7, OV says that
the signed sum does not fit, HC is the carry out of bit 3, Z says that Rn is zero (for ADDC only if Z was 1 before);
no other flag, register, special register or byte of memory changes and PC is NextPC. -/
def Obligations.AddByteResult : Prop :=
  ∀ (n m : Reg) (imm : Byte) (s : State),
    encode (.addRnRm n m) = [firstWord 0x8#4 n (m ++ 0x1#4)] ∧ encode (.addRnImm8 n imm) = [firstWord 0x1#4 n imm] ∧
    encode (.addcRnRm n m) = [firstWord 0x8#4 n (m ++ 0x6#4)] ∧ encode (.addcRnImm8 n imm) = [firstWord 0x6#4 n imm] ∧
    (∃ t, exec (.addRnRm n m) s = .next t ∧ addedByte s t n (s.reg m) false false) ∧
    (∃ t, exec (.addRnImm8 n imm) s = .next t ∧ addedByte s t n imm false false) ∧
    (∃ t, exec (.addcRnRm n m) s = .next t ∧ addedByte s t n (s.reg m) (flagC s.psw) true) ∧
    ∃ t, exec (.addcRnImm8 n imm) s = .next t ∧ addedByte s t n imm (flagC s.psw) true

/-- SUB Rn,Rm, SUBC Rn,Rm and NEG Rn have the words 8nm8H, 8nm9H and 8n5FH and always answer a next state: Rn is the
8-bit difference (Rn - Rm, Rn - Rm - C, 0 - Rn), C is the borrow, S bit 7, OV says that the signed difference does not
fit, HC is the borrow into bit 3, Z says that Rn is zero (for SUBC only if Z was 1 before); no other flag, register,
special register or byte of memory changes and PC is NextPC. CMP Rn,Rm, CMP Rn,#imm8, CMPC Rn,Rm and CMPC Rn,#imm8
have the words 8nm7H, 7nH imm8, 8nm5H and 5nH imm8 and always answer a next state: C, S, OV and HC are those of the
subtraction (with C for CMPC), Z says that the difference is zero (for CMPC only if Z was 1 before); no other flag, no
register, no special register and no byte of memory changes and PC is NextPC. -/
def Obligations.SubtractAndCompareBytes : Prop :=
  (∀ (n m : Reg) (s : State),
    encode (.subRnRm n m) = [firstWord 0x8#4 n (m ++ 0x8#4)] ∧ encode (.subcRnRm n m) = [firstWord 0x8#4 n (m ++ 0x9#4)] ∧
    encode (.negRn n) = [firstWord 0x8#4 n 0x5F#8] ∧
    (∃ t, exec (.subRnRm n m) s = .next t ∧ subtractedByte s t n (s.reg n) (s.reg m) false false) ∧
    (∃ t, exec (.subcRnRm n m) s = .next t ∧ subtractedByte s t n (s.reg n) (s.reg m) (flagC s.psw) true) ∧
    ∃ t, exec (.negRn n) s = .next t ∧ subtractedByte s t n 0 (s.reg n) false false) ∧
  ∀ (n m : Reg) (imm : Byte) (s : State),
    encode (.cmpRnRm n m) = [firstWord 0x8#4 n (m ++ 0x7#4)] ∧ encode (.cmpRnImm8 n imm) = [firstWord 0x7#4 n imm] ∧
    encode (.cmpcRnRm n m) = [firstWord 0x8#4 n (m ++ 0x5#4)] ∧ encode (.cmpcRnImm8 n imm) = [firstWord 0x5#4 n imm] ∧
    (∃ t, exec (.cmpRnRm n m) s = .next t ∧ compared s t (s.reg n) (s.reg m) false false) ∧
    (∃ t, exec (.cmpRnImm8 n imm) s = .next t ∧ compared s t (s.reg n) imm false false) ∧
    (∃ t, exec (.cmpcRnRm n m) s = .next t ∧ compared s t (s.reg n) (s.reg m) (flagC s.psw) true) ∧
    ∃ t, exec (.cmpcRnImm8 n imm) s = .next t ∧ compared s t (s.reg n) imm (flagC s.psw) true

/-- AND, OR and XOR of Rn with Rm or #imm8 have the words 8nm2H, 2nH imm8, 8nm3H, 3nH imm8, 8nm4H and 4nH imm8 and
always answer a next state: Rn is the bitwise result, Z says that it is zero, S is its bit 7; no other flag, register,
special register or byte of memory changes and PC is NextPC. -/
def Obligations.LogicByteResult : Prop :=
  ∀ (n m : Reg) (imm : Byte) (s : State),
    encode (.andRnRm n m) = [firstWord 0x8#4 n (m ++ 0x2#4)] ∧ encode (.andRnImm8 n imm) = [firstWord 0x2#4 n imm] ∧
    encode (.orRnRm n m) = [firstWord 0x8#4 n (m ++ 0x3#4)] ∧ encode (.orRnImm8 n imm) = [firstWord 0x3#4 n imm] ∧
    encode (.xorRnRm n m) = [firstWord 0x8#4 n (m ++ 0x4#4)] ∧ encode (.xorRnImm8 n imm) = [firstWord 0x4#4 n imm] ∧
    (∃ t, exec (.andRnRm n m) s = .next t ∧ wroteByte s t n (s.reg n &&& s.reg m)) ∧
    (∃ t, exec (.andRnImm8 n imm) s = .next t ∧ wroteByte s t n (s.reg n &&& imm)) ∧
    (∃ t, exec (.orRnRm n m) s = .next t ∧ wroteByte s t n (s.reg n ||| s.reg m)) ∧
    (∃ t, exec (.orRnImm8 n imm) s = .next t ∧ wroteByte s t n (s.reg n ||| imm)) ∧
    (∃ t, exec (.xorRnRm n m) s = .next t ∧ wroteByte s t n (s.reg n ^^^ s.reg m)) ∧
    ∃ t, exec (.xorRnImm8 n imm) s = .next t ∧ wroteByte s t n (s.reg n ^^^ imm)

/-- MOV Rn,Rm, MOV Rn,#imm8, MOV ERn,ERm and MOV ERn,#imm7 have the words 8nm0H, 0nH imm8, Fnm5H and EnH 0 imm7 and
always answer a next state: the destination holds the source (imm7 sign-extended), Z says that it is zero over its
whole width, S is its top bit; no other flag, register, special register or byte of memory changes and PC is NextPC.
-/
def Obligations.RegisterMoves : Prop :=
  ∀ (n m : Reg) (imm : Byte) (imm7 : BitVec 7) (s : State),
    encode (.movRnRm n m) = [firstWord 0x8#4 n (m ++ 0x0#4)] ∧ encode (.movRnImm8 n imm) = [firstWord 0x0#4 n imm] ∧
    encode (.movErnErm n m) = [firstWord 0xF#4 n (m ++ 0x5#4)] ∧
    encode (.movErnImm7 n imm7) = [firstWord 0xE#4 n (0b0#1 ++ imm7)] ∧
    (∃ t, exec (.movRnRm n m) s = .next t ∧ wroteByte s t n (s.reg m)) ∧
    (∃ t, exec (.movRnImm8 n imm) s = .next t ∧ wroteByte s t n imm) ∧
    (∃ t, exec (.movErnErm n m) s = .next t ∧ wroteWord s t n (s.er m)) ∧
    ∃ t, exec (.movErnImm7 n imm7) s = .next t ∧ wroteWord s t n (imm7.signExtend 16)

/-- ADD ERn,ERm, ADD ERn,#imm7 and CMP ERn,ERm have the words Fnm6H, EnH 1 imm7 and Fnm7H and always answer a next
state: ADD puts the 16-bit sum (imm7 sign-extended) in ERn, CMP changes no register; C is the carry out of bit 15 or
the borrow, Z says that the 16-bit result is zero, S is its bit 15, OV says that the signed result does not fit, HC is
the carry or borrow at bit 11; nothing else changes and PC is NextPC. That bit 7 of the word of ADD ERn,#imm7 is 1 is
derived by the spec, its own choice among the readings, since the figure of the page is lost (R167, C2 of
90_conflicts.md). -/
def Obligations.WordArithmetic : Prop :=
  ∀ (n m : Reg) (imm7 : BitVec 7) (s : State),
    encode (.addErnErm n m) = [firstWord 0xF#4 n (m ++ 0x6#4)] ∧
    encode (.addErnImm7 n imm7) = [firstWord 0xE#4 n (0b1#1 ++ imm7)] ∧
    encode (.cmpErnErm n m) = [firstWord 0xF#4 n (m ++ 0x7#4)] ∧
    (∃ t, exec (.addErnErm n m) s = .next t ∧ addedWord s t n (s.er m)) ∧
    (∃ t, exec (.addErnImm7 n imm7) s = .next t ∧ addedWord s t n (imm7.signExtend 16)) ∧
    ∃ t, exec (.cmpErnErm n m) s = .next t ∧ compared s t (s.er n) (s.er m) false false

/-- SLL and SLLC by Rm (its low three bits) or #width have the words 8nmAH, 9nH 0width AH, 8nmBH and 9nH 0width BH and
always answer a next state. With the count k = 0 nothing but PC changes. Otherwise SLL puts Rn * 2^k modulo 256 in Rn
and bit 8-k of the old Rn in C; SLLC puts bits 15 to 8 of (Rn:R[n-1]) * 2^k in Rn, R15 standing below R0, and bit 16-k
of that word in C. No other flag, register, special register or byte of memory changes. SRA, SRL and SRLC by Rm (its
low three bits) or #width have the words 8nmEH, 9nH 0width EH, 8nmCH, 9nH 0width CH, 8nmDH and 9nH 0width DH and
always answer a next state. With the count k = 0 nothing but PC changes. Otherwise Rn becomes, for SRA, the signed Rn
divided by 2^k rounded down; for SRL, the unsigned Rn divided by 2^k; for SRLC, bits 7 to 0 of (R[n+1]:Rn) divided by
2^k, R0 standing above R15; and C is bit k-1 of the old Rn. No other flag, register, special register or byte of
memory changes. -/
def Obligations.ShiftInstructions : Prop :=
  (∀ (n m : Reg) (width : BitVec 3) (s : State),
    encode (.sllRnRm n m) = [firstWord 0x8#4 n (m ++ 0xA#4)] ∧
    encode (.sllRnWidth n width) = [firstWord 0x9#4 n (0b0#1 ++ width ++ 0xA#4)] ∧
    encode (.sllcRnRm n m) = [firstWord 0x8#4 n (m ++ 0xB#4)] ∧
    encode (.sllcRnWidth n width) = [firstWord 0x9#4 n (0b0#1 ++ width ++ 0xB#4)] ∧
    (∃ t, exec (.sllRnRm n m) s = .next t ∧
      shifted s t n ((s.reg m).toNat % 8) (BitVec.ofNat 8 ((s.reg n).toNat * 2 ^ ((s.reg m).toNat % 8)))
        ((s.reg n).getLsbD (8 - (s.reg m).toNat % 8))) ∧
    (∃ t, exec (.sllRnWidth n width) s = .next t ∧
      shifted s t n width.toNat (BitVec.ofNat 8 ((s.reg n).toNat * 2 ^ width.toNat))
        ((s.reg n).getLsbD (8 - width.toNat))) ∧
    (∃ t, exec (.sllcRnRm n m) s = .next t ∧
      shifted s t n ((s.reg m).toNat % 8)
        (BitVec.ofNat 8 (((s.reg n).toNat * 256 + (s.reg (n - 1)).toNat) * 2 ^ ((s.reg m).toNat % 8) / 256))
        (((s.reg n).toNat * 256 + (s.reg (n - 1)).toNat).testBit (16 - (s.reg m).toNat % 8))) ∧
    ∃ t, exec (.sllcRnWidth n width) s = .next t ∧
      shifted s t n width.toNat
        (BitVec.ofNat 8 (((s.reg n).toNat * 256 + (s.reg (n - 1)).toNat) * 2 ^ width.toNat / 256))
        (((s.reg n).toNat * 256 + (s.reg (n - 1)).toNat).testBit (16 - width.toNat))) ∧
  ∀ (n m : Reg) (width : BitVec 3) (s : State),
    encode (.sraRnRm n m) = [firstWord 0x8#4 n (m ++ 0xE#4)] ∧
    encode (.sraRnWidth n width) = [firstWord 0x9#4 n (0b0#1 ++ width ++ 0xE#4)] ∧
    encode (.srlRnRm n m) = [firstWord 0x8#4 n (m ++ 0xC#4)] ∧
    encode (.srlRnWidth n width) = [firstWord 0x9#4 n (0b0#1 ++ width ++ 0xC#4)] ∧
    encode (.srlcRnRm n m) = [firstWord 0x8#4 n (m ++ 0xD#4)] ∧
    encode (.srlcRnWidth n width) = [firstWord 0x9#4 n (0b0#1 ++ width ++ 0xD#4)] ∧
    (∃ t, exec (.sraRnRm n m) s = .next t ∧
      shifted s t n ((s.reg m).toNat % 8) (BitVec.ofInt 8 ((s.reg n).toInt / 2 ^ ((s.reg m).toNat % 8)))
        ((s.reg n).getLsbD ((s.reg m).toNat % 8 - 1))) ∧
    (∃ t, exec (.sraRnWidth n width) s = .next t ∧
      shifted s t n width.toNat (BitVec.ofInt 8 ((s.reg n).toInt / 2 ^ width.toNat))
        ((s.reg n).getLsbD (width.toNat - 1))) ∧
    (∃ t, exec (.srlRnRm n m) s = .next t ∧
      shifted s t n ((s.reg m).toNat % 8) (BitVec.ofNat 8 ((s.reg n).toNat / 2 ^ ((s.reg m).toNat % 8)))
        ((s.reg n).getLsbD ((s.reg m).toNat % 8 - 1))) ∧
    (∃ t, exec (.srlRnWidth n width) s = .next t ∧
      shifted s t n width.toNat (BitVec.ofNat 8 ((s.reg n).toNat / 2 ^ width.toNat))
        ((s.reg n).getLsbD (width.toNat - 1))) ∧
    (∃ t, exec (.srlcRnRm n m) s = .next t ∧
      shifted s t n ((s.reg m).toNat % 8)
        (BitVec.ofNat 8 (((s.reg (n + 1)).toNat * 256 + (s.reg n).toNat) / 2 ^ ((s.reg m).toNat % 8)))
        ((s.reg n).getLsbD ((s.reg m).toNat % 8 - 1))) ∧
    ∃ t, exec (.srlcRnWidth n width) s = .next t ∧
      shifted s t n width.toNat
        (BitVec.ofNat 8 (((s.reg (n + 1)).toNat * 256 + (s.reg n).toNat) / 2 ^ width.toNat))
        ((s.reg n).getLsbD (width.toNat - 1))

/-- Where the prefix latch is clear, the three prefix words (E3H imm8, 90dFH, FE9FH) answer a next state: DSR is imm8,
Rd or unchanged, PFX and the IBLOCK of R260 and R78 are set, the IBLOCK of R506 is clear as after any instruction (log
28), PC is NextPC, and PSW, every register, every other special register and every byte of memory are as before. Where
the latch is set, each is the refusal prefixAfterPrefix (a decision of the spec, R124). The segment of a data access
is DSR where the prefix latch is set and 0 where it is not: so, from a state with the latch clear, the immediate
prefix word and then L Rn,[EA], and the register one and then L Rn,[EA], end with the byte at imm8:EA or Rd:EA in Rn,
and L Rn,[EA] alone with the byte at 0:EA, wherever MEMMAP has readable memory there. -/
def Obligations.PrefixWords : Prop :=
  ∀ (imm : Byte) (d : Reg) (s : State),
    encode (.dsrPrefixImm8 imm) = [firstWord 0xE#4 0x3#4 imm] ∧ encode (.dsrPrefixRd d) = [firstWord 0x9#4 0x0#4 (d ++ 0xF#4)] ∧
    encode .dsrPrefixDsr = [0xFE9F#16] ∧
    (s.pfx = false →
      (∃ t, exec (.dsrPrefixImm8 imm) s = .next t ∧ prefixed s t imm) ∧
      (∃ t, exec (.dsrPrefixRd d) s = .next t ∧ prefixed s t (s.reg d)) ∧
      ∃ t, exec .dsrPrefixDsr s = .next t ∧ prefixed s t s.dsr) ∧
    (s.pfx = true →
      exec (.dsrPrefixImm8 imm) s = .refused .prefixAfterPrefix ∧ exec (.dsrPrefixRd d) s = .refused .prefixAfterPrefix ∧
      exec .dsrPrefixDsr s = .refused .prefixAfterPrefix) ∧
    s.dseg = (if s.pfx then s.dsr else 0) ∧
    (s.pfx = false → ∀ n : Reg,
      (canRead s.dev (dataKey s.dev imm s.ea) = true →
        ∃ t u, exec (.dsrPrefixImm8 imm) s = .next t ∧ exec (.lRnEa n) t = .next u ∧
          u.reg n = s.mem.read (dataKey s.dev imm s.ea)) ∧
      (canRead s.dev (dataKey s.dev (s.reg d) s.ea) = true →
        ∃ t u, exec (.dsrPrefixRd d) s = .next t ∧ exec (.lRnEa n) t = .next u ∧
          u.reg n = s.mem.read (dataKey s.dev (s.reg d) s.ea)) ∧
      (canRead s.dev (dataKey s.dev 0 s.ea) = true →
        ∃ t, exec (.lRnEa n) s = .next t ∧ t.reg n = s.mem.read (dataKey s.dev 0 s.ea)))

/-- For each addressing form of L Rn ([EA], [EA+], [ERm], Disp16[ERm], Disp6[BP], Disp6[FP], Dadr), with its word:
where MEMMAP has readable memory at DSEG:offset, the instruction answers a next state in which Rn holds the byte
there, Z says that it is zero, S is its bit 7, EA is one higher for [EA+] and unchanged otherwise, AR has latched the
offset (R71; which value it holds is the model's reading, log 27), PC is NextPC, and no other flag, register, special
register or byte of memory has changed. -/
def Obligations.LoadByteForms : Prop :=
  ∀ (n m : Reg) (disp dadr : Word) (d6 : BitVec 6) (s : State),
    encode (.lRnEa n) = [firstWord 0x9#4 n 0x30#8] ∧
    encode (.lRnEaInc n) = [firstWord 0x9#4 n 0x50#8] ∧
    encode (.lRnErm n m) = [firstWord 0x9#4 n (m ++ 0x0#4)] ∧
    encode (.lRnDisp16Erm n m disp) = [firstWord 0x9#4 n (m ++ 0x8#4), disp] ∧
    encode (.lRnDisp6Bp n d6) = [firstWord 0xD#4 n (0b00#2 ++ d6)] ∧
    encode (.lRnDisp6Fp n d6) = [firstWord 0xD#4 n (0b01#2 ++ d6)] ∧
    encode (.lRnDadr n dadr) = [firstWord 0x9#4 n 0x10#8, dadr] ∧
    (canLoad s s.ea 1 → ∃ t, exec (.lRnEa n) s = .next t ∧ loaded s t s.nextPc s.ea n 1 s.ea) ∧
    (canLoad s s.ea 1 → ∃ t, exec (.lRnEaInc n) s = .next t ∧ loaded s t s.nextPc s.ea n 1 (s.ea + 1)) ∧
    (canLoad s (s.er m) 1 → ∃ t, exec (.lRnErm n m) s = .next t ∧ loaded s t s.nextPc (s.er m) n 1 s.ea) ∧
    (canLoad s (s.er m + disp) 1 → ∃ t, exec (.lRnDisp16Erm n m disp) s = .next t ∧ loaded s t s.nextPc2 (s.er m + disp) n 1 s.ea) ∧
    (canLoad s (s.er 12 + d6.signExtend 16) 1 → ∃ t, exec (.lRnDisp6Bp n d6) s = .next t ∧ loaded s t s.nextPc (s.er 12 + d6.signExtend 16) n 1 s.ea) ∧
    (canLoad s (s.er 14 + d6.signExtend 16) 1 → ∃ t, exec (.lRnDisp6Fp n d6) s = .next t ∧ loaded s t s.nextPc (s.er 14 + d6.signExtend 16) n 1 s.ea) ∧
    (canLoad s dadr 1 → ∃ t, exec (.lRnDadr n dadr) s = .next t ∧ loaded s t s.nextPc2 dadr n 1 s.ea)

/-- For each addressing form of L ERn, with its word: where MEMMAP has readable memory at the two bytes from
DSEG:(offset with bit 0 dropped) on, the instruction answers a next state in which Rn and R[n+1] hold them, Z says
that both are zero, S is bit 15, EA is two higher with bit 0 dropped for [EA+] and unchanged otherwise, AR has latched
the offset (R71; which value it holds is the model's reading, log 27), PC is NextPC, and no other flag, register,
special register or byte of memory has changed. -/
def Obligations.LoadWordForms : Prop :=
  ∀ (n m : Reg) (disp dadr : Word) (d6 : BitVec 6) (s : State),
    encode (.lErnEa n) = [firstWord 0x9#4 n 0x32#8] ∧
    encode (.lErnEaInc n) = [firstWord 0x9#4 n 0x52#8] ∧
    encode (.lErnErm n m) = [firstWord 0x9#4 n (m ++ 0x2#4)] ∧
    encode (.lErnDisp16Erm n m disp) = [firstWord 0xA#4 n (m ++ 0x8#4), disp] ∧
    encode (.lErnDisp6Bp n d6) = [firstWord 0xB#4 n (0b00#2 ++ d6)] ∧
    encode (.lErnDisp6Fp n d6) = [firstWord 0xB#4 n (0b01#2 ++ d6)] ∧
    encode (.lErnDadr n dadr) = [firstWord 0x9#4 n 0x12#8, dadr] ∧
    (canLoad s s.ea 2 → ∃ t, exec (.lErnEa n) s = .next t ∧ loaded s t s.nextPc s.ea n 2 s.ea) ∧
    (canLoad s s.ea 2 → ∃ t, exec (.lErnEaInc n) s = .next t ∧ loaded s t s.nextPc s.ea n 2 ((s.ea + 2) &&& 0xFFFE#16)) ∧
    (canLoad s (s.er m) 2 → ∃ t, exec (.lErnErm n m) s = .next t ∧ loaded s t s.nextPc (s.er m) n 2 s.ea) ∧
    (canLoad s (s.er m + disp) 2 → ∃ t, exec (.lErnDisp16Erm n m disp) s = .next t ∧ loaded s t s.nextPc2 (s.er m + disp) n 2 s.ea) ∧
    (canLoad s (s.er 12 + d6.signExtend 16) 2 → ∃ t, exec (.lErnDisp6Bp n d6) s = .next t ∧ loaded s t s.nextPc (s.er 12 + d6.signExtend 16) n 2 s.ea) ∧
    (canLoad s (s.er 14 + d6.signExtend 16) 2 → ∃ t, exec (.lErnDisp6Fp n d6) s = .next t ∧ loaded s t s.nextPc (s.er 14 + d6.signExtend 16) n 2 s.ea) ∧
    (canLoad s dadr 2 → ∃ t, exec (.lErnDadr n dadr) s = .next t ∧ loaded s t s.nextPc2 dadr n 2 s.ea)

/-- For L XRn and L QRn through [EA] and [EA+], with their words: where MEMMAP has readable memory at the four or
eight bytes from DSEG:(EA with bit 0 dropped) on, the instruction answers a next state in which the register group
holds them, the lowest address in the lowest-numbered register (R300, derived by the spec; an offset past FFFFH wraps
in the segment, R115, decision D13 of the spec; log 26), Z says that all are zero, S is the top bit, EA is four or
eight higher with bit 0 dropped for [EA+] and unchanged otherwise, AR has latched the offset (R71; which value it
holds is the model's reading, log 27), PC is NextPC, and no other flag, register, special register or byte of memory
has changed. -/
def Obligations.LoadWideForms : Prop :=
  ∀ (n : Reg) (s : State),
    encode (.lXrnEa n) = [firstWord 0x9#4 n 0x34#8] ∧ encode (.lXrnEaInc n) = [firstWord 0x9#4 n 0x54#8] ∧
    encode (.lQrnEa n) = [firstWord 0x9#4 n 0x36#8] ∧ encode (.lQrnEaInc n) = [firstWord 0x9#4 n 0x56#8] ∧
    (canLoad s s.ea 4 → ∃ t, exec (.lXrnEa n) s = .next t ∧ loaded s t s.nextPc s.ea n 4 s.ea) ∧
    (canLoad s s.ea 4 →
      ∃ t, exec (.lXrnEaInc n) s = .next t ∧ loaded s t s.nextPc s.ea n 4 ((s.ea + 4) &&& 0xFFFE#16)) ∧
    (canLoad s s.ea 8 → ∃ t, exec (.lQrnEa n) s = .next t ∧ loaded s t s.nextPc s.ea n 8 s.ea) ∧
    (canLoad s s.ea 8 →
      ∃ t, exec (.lQrnEaInc n) s = .next t ∧ loaded s t s.nextPc s.ea n 8 ((s.ea + 8) &&& 0xFFFE#16))

/-- For each addressing form of ST Rn, with its word: where memory is in its canonical form and MEMMAP has writable
memory outside the ROM window at DSEG:offset, the instruction answers a next state in which the byte there is Rn and
every other byte of memory reads as before; EA is one higher for [EA+] and unchanged otherwise, AR has latched the
offset and the store record has gained the byte if code shares it (R71 and R148, a decision of the spec; the forms of
both are the model's readings, logs 27 and 15), PC is NextPC, and no flag, register or other special register has
changed. -/
def Obligations.StoreByteForms : Prop :=
  ∀ (n m : Reg) (disp dadr : Word) (d6 : BitVec 6) (s : State), s.mem.wf →
    encode (.stRnEa n) = [firstWord 0x9#4 n 0x31#8] ∧
    encode (.stRnEaInc n) = [firstWord 0x9#4 n 0x51#8] ∧
    encode (.stRnErm n m) = [firstWord 0x9#4 n (m ++ 0x1#4)] ∧
    encode (.stRnDisp16Erm n m disp) = [firstWord 0x9#4 n (m ++ 0x9#4), disp] ∧
    encode (.stRnDisp6Bp n d6) = [firstWord 0xD#4 n (0b10#2 ++ d6)] ∧
    encode (.stRnDisp6Fp n d6) = [firstWord 0xD#4 n (0b11#2 ++ d6)] ∧
    encode (.stRnDadr n dadr) = [firstWord 0x9#4 n 0x11#8, dadr] ∧
    (canStore s s.ea 1 →
      ∃ t, exec (.stRnEa n) s = .next t ∧ stored s t s.nextPc s.ea (s.regs n 1) s.ea) ∧
    (canStore s s.ea 1 →
      ∃ t, exec (.stRnEaInc n) s = .next t ∧ stored s t s.nextPc s.ea (s.regs n 1) (s.ea + 1)) ∧
    (canStore s (s.er m) 1 →
      ∃ t, exec (.stRnErm n m) s = .next t ∧ stored s t s.nextPc (s.er m) (s.regs n 1) s.ea) ∧
    (canStore s (s.er m + disp) 1 →
      ∃ t, exec (.stRnDisp16Erm n m disp) s = .next t ∧ stored s t s.nextPc2 (s.er m + disp) (s.regs n 1) s.ea) ∧
    (canStore s (s.er 12 + d6.signExtend 16) 1 →
      ∃ t, exec (.stRnDisp6Bp n d6) s = .next t ∧ stored s t s.nextPc (s.er 12 + d6.signExtend 16) (s.regs n 1) s.ea) ∧
    (canStore s (s.er 14 + d6.signExtend 16) 1 →
      ∃ t, exec (.stRnDisp6Fp n d6) s = .next t ∧ stored s t s.nextPc (s.er 14 + d6.signExtend 16) (s.regs n 1) s.ea) ∧
    (canStore s dadr 1 →
      ∃ t, exec (.stRnDadr n dadr) s = .next t ∧ stored s t s.nextPc2 dadr (s.regs n 1) s.ea)

/-- For each addressing form of ST ERn, with its word: where memory is in its canonical form and MEMMAP has writable
memory outside the ROM window at the two bytes from DSEG:(offset with bit 0 dropped) on, the instruction answers a
next state in which those bytes are Rn and R[n+1] and every other byte of memory reads as before; EA is two higher
with bit 0 dropped for [EA+] and unchanged otherwise, AR has latched the offset and the store record has gained the
bytes that code shares (R71 and R148, a decision of the spec; the forms of both are the model's readings, logs 27 and
15), PC is NextPC, and no flag, register or other special register has changed. -/
def Obligations.StoreWordForms : Prop :=
  ∀ (n m : Reg) (disp dadr : Word) (d6 : BitVec 6) (s : State), s.mem.wf →
    encode (.stErnEa n) = [firstWord 0x9#4 n 0x33#8] ∧
    encode (.stErnEaInc n) = [firstWord 0x9#4 n 0x53#8] ∧
    encode (.stErnErm n m) = [firstWord 0x9#4 n (m ++ 0x3#4)] ∧
    encode (.stErnDisp16Erm n m disp) = [firstWord 0xA#4 n (m ++ 0x9#4), disp] ∧
    encode (.stErnDisp6Bp n d6) = [firstWord 0xB#4 n (0b10#2 ++ d6)] ∧
    encode (.stErnDisp6Fp n d6) = [firstWord 0xB#4 n (0b11#2 ++ d6)] ∧
    encode (.stErnDadr n dadr) = [firstWord 0x9#4 n 0x13#8, dadr] ∧
    (canStore s s.ea 2 →
      ∃ t, exec (.stErnEa n) s = .next t ∧ stored s t s.nextPc s.ea (s.regs n 2) s.ea) ∧
    (canStore s s.ea 2 →
      ∃ t, exec (.stErnEaInc n) s = .next t ∧ stored s t s.nextPc s.ea (s.regs n 2) ((s.ea + 2) &&& 0xFFFE#16)) ∧
    (canStore s (s.er m) 2 →
      ∃ t, exec (.stErnErm n m) s = .next t ∧ stored s t s.nextPc (s.er m) (s.regs n 2) s.ea) ∧
    (canStore s (s.er m + disp) 2 →
      ∃ t, exec (.stErnDisp16Erm n m disp) s = .next t ∧ stored s t s.nextPc2 (s.er m + disp) (s.regs n 2) s.ea) ∧
    (canStore s (s.er 12 + d6.signExtend 16) 2 →
      ∃ t, exec (.stErnDisp6Bp n d6) s = .next t ∧ stored s t s.nextPc (s.er 12 + d6.signExtend 16) (s.regs n 2) s.ea) ∧
    (canStore s (s.er 14 + d6.signExtend 16) 2 →
      ∃ t, exec (.stErnDisp6Fp n d6) s = .next t ∧ stored s t s.nextPc (s.er 14 + d6.signExtend 16) (s.regs n 2) s.ea) ∧
    (canStore s dadr 2 →
      ∃ t, exec (.stErnDadr n dadr) s = .next t ∧ stored s t s.nextPc2 dadr (s.regs n 2) s.ea)

/-- For ST XRn and ST QRn through [EA] and [EA+], with their words: where memory is in its canonical form and MEMMAP
has writable memory outside the ROM window at the four or eight bytes from DSEG:(EA with bit 0 dropped) on, the
instruction answers a next state in which those bytes are the register group, the lowest-numbered register at the
lowest address (R300, derived by the spec; an offset past FFFFH wraps in the segment, R115, decision D13 of the spec;
log 26), and every other byte of memory reads as before; EA is four or eight higher with bit 0 dropped for [EA+] and
unchanged otherwise, AR has latched the offset and the store record has gained the bytes that code shares (R71 and
R148, a decision of the spec; the forms of both are the model's readings, logs 27 and 15), PC is NextPC, and no flag,
register or other special register has changed. -/
def Obligations.StoreWideForms : Prop :=
  ∀ (n : Reg) (s : State), s.mem.wf →
    encode (.stXrnEa n) = [firstWord 0x9#4 n 0x35#8] ∧ encode (.stXrnEaInc n) = [firstWord 0x9#4 n 0x55#8] ∧
    encode (.stQrnEa n) = [firstWord 0x9#4 n 0x37#8] ∧ encode (.stQrnEaInc n) = [firstWord 0x9#4 n 0x57#8] ∧
    (canStore s s.ea 4 → ∃ t, exec (.stXrnEa n) s = .next t ∧ stored s t s.nextPc s.ea (s.regs n 4) s.ea) ∧
    (canStore s s.ea 4 →
      ∃ t, exec (.stXrnEaInc n) s = .next t ∧ stored s t s.nextPc s.ea (s.regs n 4) ((s.ea + 4) &&& 0xFFFE#16)) ∧
    (canStore s s.ea 8 → ∃ t, exec (.stQrnEa n) s = .next t ∧ stored s t s.nextPc s.ea (s.regs n 8) s.ea) ∧
    (canStore s s.ea 8 →
      ∃ t, exec (.stQrnEaInc n) s = .next t ∧ stored s t s.nextPc s.ea (s.regs n 8) ((s.ea + 8) &&& 0xFFFE#16))

/-- A data address inside the ROM window has the key of the code byte 0:o, and the window lies in data segment 0 only;
outside the window a data address s:o with s from 1 to 15 has the key of the code byte s:o, and every data address
outside the window has another key than every byte of code segment 0; a data address in segments 16 to 255 has another
key than every code byte. L Rn,[EA] with an offset inside the window, where MEMMAP has readable memory, puts the code
byte 0:EA in Rn. -/
def Obligations.AddressSpaces : Prop :=
  ∀ (d : Device) (seg : Byte) (c : CodeSeg) (o o' : Word) (n : Reg) (s : State),
    (inRomWindow d seg o = true ↔
      seg = 0 ∧ ∃ lo hi, d.romWindow = some (lo, hi) ∧ lo.toNat ≤ o.toNat ∧ o.toNat ≤ hi.toNat) ∧
    (inRomWindow d seg o = true → dataKey d seg o = codeKey 0 o) ∧
    (c ≠ 0 → dataKey d (c.zeroExtend 8) o = codeKey c o) ∧
    (inRomWindow d seg o = false → dataKey d seg o ≠ codeKey 0 o') ∧
    (16 ≤ seg.toNat → dataKey d seg o ≠ codeKey c o') ∧
    (inRomWindow s.dev s.dseg s.ea = true → canLoad s s.ea 1 →
      ∃ t, exec (.lRnEa n) s = .next t ∧ t.reg n = s.mem.read (codeKey 0 s.ea))

/-- ADD SP,#signed8, MOV ERn,SP, MOV SP,ERm and MOV Rn,PSW have the words E1H signed8, An1AH, A1mAH and An03H and
always answer a next state: SP is SP plus the sign-extended value; ERn is SP; SP is ERm with all 16 bits; Rn is PSW
with all 8 bits. No flag, other register, special register or byte of memory changes and PC is NextPC. LEA [ERm], LEA
Disp16[ERm] and LEA Dadr have the words F0mAH, F0mBH Disp16 and F00CH Dadr and always answer a next state: EA is ERm,
ERm + Disp16 modulo 65536, or Dadr, odd values kept; no flag, register, other special register or byte of memory
changes and PC is NextPC. -/
def Obligations.PointerMovesAndLea : Prop :=
  (∀ (n m : Reg) (imm : Byte) (s : State),
    encode (.addSpSigned8 imm) = [firstWord 0xE#4 0x1#4 imm] ∧ encode (.movErnSp n) = [firstWord 0xA#4 n 0x1A#8] ∧
    encode (.movSpErm m) = [firstWord 0xA#4 0x1#4 (m ++ 0xA#4)] ∧ encode (.movRnPsw n) = [firstWord 0xA#4 n 0x03#8] ∧
    (∃ t, exec (.addSpSigned8 imm) s = .next t ∧
      onlySpecial s t s.nextPc { s.special with sp := s.sp + imm.signExtend 16 }) ∧
    (∃ t, exec (.movErnSp n) s = .next t ∧ onlyRegs s t s.nextPc [n, n + 1] ∧ t.er n = s.sp ∧ t.psw = s.psw) ∧
    (∃ t, exec (.movSpErm m) s = .next t ∧ onlySpecial s t s.nextPc { s.special with sp := s.er m }) ∧
    ∃ t, exec (.movRnPsw n) s = .next t ∧ onlyRegs s t s.nextPc [n] ∧ t.reg n = s.psw ∧ t.psw = s.psw) ∧
  ∀ (m : Reg) (disp dadr : Word) (s : State),
    encode (.leaErm m) = [firstWord 0xF#4 0x0#4 (m ++ 0xA#4)] ∧
    encode (.leaDisp16Erm m disp) = [firstWord 0xF#4 0x0#4 (m ++ 0xB#4), disp] ∧ encode (.leaDadr dadr) = [0xF00C#16, dadr] ∧
    (∃ t, exec (.leaErm m) s = .next t ∧ onlySpecial s t s.nextPc { s.special with ea := s.er m }) ∧
    (∃ t, exec (.leaDisp16Erm m disp) s = .next t ∧ onlySpecial s t s.nextPc2 { s.special with ea := s.er m + disp }) ∧
    ∃ t, exec (.leaDadr dadr) s = .next t ∧ onlySpecial s t s.nextPc2 { s.special with ea := dadr }

/-- With k the level the instruction uses (ELEVEL, but for the draw of R578 right after a MOV PSW that changed it, log
13) and the registers of level k present: MOV ECSR,Rm puts Rm[3:0] in ECSR of level k (nothing in the SMALL model),
MOV ELR,ERm puts ERm with bit 0 cleared in ELR of level k, MOV EPSW,Rm puts Rm in EPSW of level k (nothing at level
0), MOV ERn,ELR, MOV Rn,ECSR (upper four bits 0) and MOV Rn,EPSW (nothing at level 0) read them; level 0 means LR and
LCSR. Each answers a next state, changes no flag and nothing else, and PC is NextPC. R63, R68 and R73 are decisions of
the spec (D10, D8, D11, logs 16, 17, 32). -/
def Obligations.BackupRegisterMoves : Prop :=
  ∀ (n m : Reg) (s : State), (s.levelView = none → s.useLevel = elevelOf s.psw) ∧
    (s.levelPresent s.useLevel = true →
      (∃ t, exec (.movEcsrRm m) s = .next t ∧
        onlySpecial s t s.nextPc
          (if s.isLarge then s.special.withEcsr s.useLevel ((s.reg m).extractLsb' 0 4) else s.special)) ∧
      (∃ t, exec (.movElrErm m) s = .next t ∧
        onlySpecial s t s.nextPc (s.special.withElr s.useLevel (s.er m &&& 0xFFFE#16))) ∧
      (∃ t, exec (.movEpswRm m) s = .next t ∧ onlySpecial s t s.nextPc (s.special.withEpsw s.useLevel (s.reg m))) ∧
      (∃ t, exec (.movErnElr n) s = .next t ∧
        onlyRegs s t s.nextPc [n, n + 1] ∧ t.er n = s.elr s.useLevel ∧ t.psw = s.psw) ∧
      (∃ t, exec (.movRnEcsr n) s = .next t ∧
        onlyRegs s t s.nextPc [n] ∧ t.reg n = (s.ecsr s.useLevel).zeroExtend 8 ∧ t.psw = s.psw) ∧
      ∃ t, exec (.movRnEpsw n) s = .next t ∧
        onlyRegs s t s.nextPc [n] ∧ t.reg n = (s.epsw s.useLevel).getD (s.reg n) ∧ t.psw = s.psw)

/-- Where HAS_LEVEL3 is false and the level in use is 3: the six MOV to and from ECSR, ELR and EPSW, every PUSH
register_list that names ELR or EPSW, and RTI are the refusal level3Absent. On such a device an entry to level 3 is
the same refusal. That a stop is a refusal is the model's form of UNDEFINED (log 7). Where the device has no
coprocessor, all eighteen coprocessor transfer instructions are the refusal noCoprocessor, whatever their operands.
That this case is UNDEFINED is a decision of the spec (R388), and that it is a refusal is the model's (log 7). -/
def Obligations.AbsentUnitStops : Prop :=
  (∀ (n m : Reg) (s : State), s.dev.hasLevel3 = false →
    (s.useLevel = 3#2 →
      exec (.movEcsrRm m) s = .refused .level3Absent ∧ exec (.movElrErm m) s = .refused .level3Absent ∧
      exec (.movEpswRm m) s = .refused .level3Absent ∧ exec (.movErnElr n) s = .refused .level3Absent ∧
      exec (.movRnEcsr n) s = .refused .level3Absent ∧ exec (.movRnEpsw n) s = .refused .level3Absent ∧
      (∀ p ∈ pushLists, p.1.getLsbD 1 = true ∨ p.1.getLsbD 2 = true → exec p.2 s = .refused .level3Absent) ∧
      exec .rti s = .refused .level3Absent) ∧
    ∀ (vec ret : Word) (c : Bool) (saved : Byte), s.enter 3#2 vec ret c saved = .refused .level3Absent) ∧
  ∀ (n m : Reg) (s : State), s.dev.coprocessor = .absent →
    ∀ i ∈ [Instr.movCrnRm n m, .movRnCrm n m, .movCrnEa n, .movCrnEaInc n, .movCernEa n, .movCernEaInc n, .movCxrnEa n,
        .movCxrnEaInc n, .movCqrnEa n, .movCqrnEaInc n, .movEaCrm m, .movEaIncCrm m, .movEaCerm m, .movEaIncCerm m,
        .movEaCxrm m, .movEaIncCxrm m, .movEaCqrm m, .movEaIncCqrm m],
      exec i s = .refused .noCoprocessor

/-- MOV PSW,Rm and MOV PSW,#unsigned8 always answer a next state in which PSW is the new value and PC is NextPC; no
register, no byte of memory and no special register changes but the model's count of drawn values. The three fields
behind R577 and R578 are the model's (logs 12, 13): where MIE goes from 1 to 0 two boundaries are open, otherwise one
fewer than before; where ELEVEL changes, the level of the next boundary and instruction is the old or the new one,
otherwise none is drawn. -/
def Obligations.MovPswEffect : Prop :=
  ∀ (m : Reg) (imm : Byte) (s : State), ∀ p ∈ [(Instr.movPswRm m, s.reg m), (Instr.movPswUnsigned8 imm, imm)],
    ∃ t, exec p.1 s = .next t ∧ t.psw = p.2 ∧ goesOn t s.nextPc ∧ sameRegsBut s t [] ∧ sameMemBut s t [] ∧
      t.special = { s.special with draws := s.draws + if elevelOf p.2 = elevelOf s.psw then 0 else 1 } ∧
      t.eiWindow = s.eiWindow - 1 ∧
      t.mieWindow = (if flagMIE s.psw = true ∧ flagMIE p.2 = false then 2 else s.mieWindow - 1) ∧
      (elevelOf p.2 = elevelOf s.psw → t.levelView = none) ∧
      (elevelOf p.2 ≠ elevelOf s.psw → t.levelView = some (elevelOf s.psw) ∨ t.levelView = some (elevelOf p.2))

/-- Where memory is in its canonical form and MEMMAP has writable memory outside the ROM window at the bytes of the
frame in data segment 0: PUSH ERn, XRn and QRn lower SP by 2, 4 and 8 and store the group from SP upwards, the
lowest-numbered register at the lowest address (for XRn and QRn R300 and the last sentence of R343, the spec's
extension of the word rule; an offset past FFFFH wraps in the segment, R115, decision D13 of the spec; the model's
reading of both, log 26); PUSH Rn lowers SP by 2, stores Rn at SP and a free byte above it (log 6; its place is
decision D23 of the spec, R353, log 19). An odd SP is used as is, AR has latched SP (R71; the model's reading, log
27), and no flag, register, other special register or other byte of memory changes; PC is NextPC. -/
def Obligations.PushRegisters : Prop :=
  ∀ (n : Reg) (s : State), s.mem.wf →
    (writable s 0 (s.sp - 2) 2 →
      (∃ t, exec (.pushRn n) s = .next t ∧ pushed s t [some (s.reg n), none]) ∧
      ∃ t, exec (.pushErn n) s = .next t ∧ pushed s t ((s.regs n 2).map some)) ∧
    (writable s 0 (s.sp - 4) 4 → ∃ t, exec (.pushXrn n) s = .next t ∧ pushed s t ((s.regs n 4).map some)) ∧
    (writable s 0 (s.sp - 8) 8 → ∃ t, exec (.pushQrn n) s = .next t ∧ pushed s t ((s.regs n 8).map some))

/-- For each of the fifteen PUSH register_list instructions (EA; ELR; EA,ELR; EPSW; EA,EPSW; ELR,EPSW; EA,ELR,EPSW;
LR; EA,LR; ELR,LR; EA,ELR,LR; EPSW,LR; EA,EPSW,LR; ELR,EPSW,LR; EA,ELR,EPSW,LR): where the backup registers it names
are present, memory is in its canonical form and MEMMAP has writable memory at the bytes of the frame, it answers a
next state: SP is lower by the size of the frame, which holds from SP upwards EA, LR (with LCSR and a free byte in the
LARGE model), EPSW and a free byte (two free bytes at level 0), ELR (with ECSR and a free byte in the LARGE model), as
far as named; nothing else changes but AR, which has latched the new SP (R71; the model's reading, log 27), and the
count of drawn values (log 6). R350, R352 and R353 are decisions of the spec (D21 to D23, logs 18 to 20), and so is
the wrap of stack offsets (R115, D13, log 26). -/
def Obligations.PushRegisterLists : Prop :=
  ∀ (s : State), s.mem.wf → ∀ p ∈ pushLists,
    (p.1.getLsbD 1 = true ∨ p.1.getLsbD 2 = true → s.levelPresent s.useLevel = true) →
    writable s 0 (s.sp - BitVec.ofNat 16 (pushFrame s p.1).length) (pushFrame s p.1).length →
    ∃ t, exec p.2 s = .next t ∧ pushed s t (pushFrame s p.1)

/-- POP Rn, ERn, XRn and QRn have the words Fn0EH, Fn1EH, Fn2EH and Fn3EH. Where MEMMAP has readable memory at the
bytes read in data segment 0 (one for Rn), they answer a next state: the register group holds the bytes from SP
upwards, the lowest address in the lowest-numbered register (for XRn and QRn R300 and the last sentence of R343, the
spec's extension of the word rule; an offset past FFFFH wraps in the segment, R115, decision D13 of the spec; the
model's reading of both, log 26), SP is higher by 2, 2, 4 and 8; no flag, other register, special register or byte of
memory changes but AR, which has latched the last offset (R71; the model's reading, log 27). That the dummy cycle of
POP Rn reads nothing is decision D23 of the spec (R353, log 19); PC is NextPC. -/
def Obligations.PopRegisters : Prop :=
  ∀ (n : Reg) (s : State),
    encode (.popRn n) = [firstWord 0xF#4 n 0x0E#8] ∧ encode (.popErn n) = [firstWord 0xF#4 n 0x1E#8] ∧
    encode (.popXrn n) = [firstWord 0xF#4 n 0x2E#8] ∧ encode (.popQrn n) = [firstWord 0xF#4 n 0x3E#8] ∧
    (readable s 0 s.sp 1 → ∃ t, exec (.popRn n) s = .next t ∧ popped s t n 1 2) ∧
    (readable s 0 s.sp 2 → ∃ t, exec (.popErn n) s = .next t ∧ popped s t n 2 2) ∧
    (readable s 0 s.sp 4 → ∃ t, exec (.popXrn n) s = .next t ∧ popped s t n 4 4) ∧
    (readable s 0 s.sp 8 → ∃ t, exec (.popQrn n) s = .next t ∧ popped s t n 8 8)

/-- For each of the fifteen POP register_list instructions (EA; PC; EA,PC; PSW; EA,PSW; PC,PSW; EA,PC,PSW; LR; EA,LR;
PC,LR; EA,PC,LR; PSW,LR; EA,PSW,LR; PC,PSW,LR; EA,PC,PSW,LR): where MEMMAP has readable memory at the bytes it reads,
it answers a next state: the named registers take their items in the order EA, LR, PSW, PC from SP upwards, LR and PC
with bit 0 dropped, LCSR and CSR from bits 3 to 0 of the segment byte in the LARGE model, all eight bits of PSW; dummy
bytes are skipped; SP is above the frame; PC is NextPC if not named; no register, byte of memory or other special
register changes but AR, which has latched the last offset read (R71; the model's reading, log 27). Decisions of the
spec: the LARGE layout (R352, D22, log 18), bit 0 of LR stored as 0 (R63, D10, log 17), dummy bytes that are skipped
and need not be readable (R353, D23, log 19), the wrap of stack offsets (R115, D13, log 26). -/
def Obligations.PopRegisterLists : Prop :=
  ∀ (s : State), ∀ p ∈ popLists, stackReadable s (popReads s p.1) → ∃ t, exec p.2 s = .next t ∧ poppedList s t p.1

/-- From a state that meets the invariant, with writable memory for 8 bytes below SP: PUSH Rn then POP Rn, PUSH ERn
then POP ERn, PUSH XRn then POP XRn, PUSH QRn then POP QRn, PUSH EA then POP EA, and PUSH LR then POP LR all answer
next states and end with SP, PSW, every general register, EA, LR and LCSR as before; at a level with an EPSW register
that is present, PUSH EPSW then POP PSW ends with PSW equal to that EPSW and SP as before. -/
def Obligations.PushThenPopRestores : Prop :=
  ∀ (n : Reg) (s : State), Inv s → writable s 0 (s.sp - 8) 8 →
    (∀ p ∈ [(Instr.pushRn n, Instr.popRn n), (.pushErn n, .popErn n), (.pushXrn n, .popXrn n), (.pushQrn n, .popQrn n),
        (.pushEa, .popEa), (.pushLr, .popLr)],
      ∃ t u, exec p.1 s = .next t ∧ exec p.2 t = .next u ∧ u.sp = s.sp ∧ u.psw = s.psw ∧ sameRegsBut s u [] ∧
        u.ea = s.ea ∧ u.lr = s.lr ∧ u.lcsr = s.lcsr) ∧
    (s.levelPresent s.useLevel = true → s.useLevel ≠ 0 →
      ∃ t u, exec .pushEpsw s = .next t ∧ exec .popPsw t = .next u ∧ u.sp = s.sp ∧ some u.psw = s.epsw s.useLevel)

/-- From a state that meets the invariant, at a level other than 0 whose backup registers are present, with writable
memory for 8 bytes below SP: PUSH ELR,EPSW and then POP PC,PSW answer next states, RTI answers one too, and both ways
end with the same PC, CSR and PSW and with SP and every general register as at the start. -/
def Obligations.ReturnThroughStackIsRti : Prop :=
  ∀ s : State, Inv s → s.useLevel ≠ 0 → s.levelPresent s.useLevel = true → writable s 0 (s.sp - 8) 8 →
    ∃ t u v, exec .pushElrEpsw s = .next t ∧ exec .popPcPsw t = .next u ∧ exec .rti s = .next v ∧
      u.pc = v.pc ∧ u.csr = v.csr ∧ u.psw = v.psw ∧ u.sp = s.sp ∧ v.sp = s.sp ∧ sameRegsBut s u [] ∧ sameRegsBut s v []

/-- Where a coprocessor is fitted, MOV CRn,Rm (word AnmEH) answers a next state in which CRn is Rm and everything else
is as before, and MOV Rn,CRm (word Anm6H) one in which Rn is CRm where the coprocessor is storage and a free value
where it is a device (log 14); no flag, other register, special register or byte of memory changes but the count of
drawn values; PC is NextPC. The two kinds of coprocessor are a decision of the spec (R388). -/
def Obligations.CoprocessorRegisterMoves : Prop :=
  ∀ (n m : Reg) (s : State), s.dev.coprocessor ≠ .absent →
    encode (.movCrnRm n m) = [firstWord 0xA#4 n (m ++ 0xE#4)] ∧ encode (.movRnCrm n m) = [firstWord 0xA#4 n (m ++ 0x6#4)] ∧
    (∃ t, exec (.movCrnRm n m) s = .next t ∧ t.creg n = s.reg m ∧ (∀ x, x ≠ n → t.creg x = s.creg x) ∧
      onlySpecial s t s.nextPc { s.special with cr := t.cr }) ∧
    ∃ t, exec (.movRnCrm n m) s = .next t ∧ (s.dev.coprocessor = .storage → t.reg n = s.creg m) ∧
      continuesAt s t s.nextPc ∧ sameRegsBut s t [n] ∧ sameMemBut s t [] ∧ t.psw = s.psw ∧
      t.special = { s.special with draws := s.draws + if s.dev.coprocessor = .device then 1 else 0 }

/-- For the eight coprocessor loads, with the words FnxDH (x = 0 to 7): where a coprocessor is fitted and MEMMAP has
readable memory at the 1, 2, 4 or 8 bytes from DSEG:EA on (bit 0 of EA dropped but for the byte), the instruction
answers a next state in which the coprocessor registers from CRn on hold them, the lowest address in the
lowest-numbered register; EA is higher by the size, with bit 0 dropped but for the byte, for [EA+] and unchanged
otherwise; no flag, general register, other coprocessor register, special register or byte of memory changes but AR
(R71, log 27); PC is NextPC. The grouping of the CR registers and the three kinds of coprocessor are decisions of the
spec (R75, R388, D30; log 14 for the kinds, log 26 for byte order and wrap). -/
def Obligations.CoprocessorLoads : Prop :=
  ∀ (n : Reg) (s : State), s.dev.coprocessor ≠ .absent →
    encode (.movCrnEa n) = [firstWord 0xF#4 n 0x0D#8] ∧ encode (.movCrnEaInc n) = [firstWord 0xF#4 n 0x1D#8] ∧
    encode (.movCernEa n) = [firstWord 0xF#4 n 0x2D#8] ∧ encode (.movCernEaInc n) = [firstWord 0xF#4 n 0x3D#8] ∧
    encode (.movCxrnEa n) = [firstWord 0xF#4 n 0x4D#8] ∧ encode (.movCxrnEaInc n) = [firstWord 0xF#4 n 0x5D#8] ∧
    encode (.movCqrnEa n) = [firstWord 0xF#4 n 0x6D#8] ∧ encode (.movCqrnEaInc n) = [firstWord 0xF#4 n 0x7D#8] ∧
    (canLoad s s.ea 1 →
      (∃ t, exec (.movCrnEa n) s = .next t ∧ coLoaded s t n 1 s.ea) ∧
      ∃ t, exec (.movCrnEaInc n) s = .next t ∧ coLoaded s t n 1 (s.ea + 1)) ∧
    (canLoad s s.ea 2 →
      (∃ t, exec (.movCernEa n) s = .next t ∧ coLoaded s t n 2 s.ea) ∧
      ∃ t, exec (.movCernEaInc n) s = .next t ∧ coLoaded s t n 2 ((s.ea + 2) &&& 0xFFFE#16)) ∧
    (canLoad s s.ea 4 →
      (∃ t, exec (.movCxrnEa n) s = .next t ∧ coLoaded s t n 4 s.ea) ∧
      ∃ t, exec (.movCxrnEaInc n) s = .next t ∧ coLoaded s t n 4 ((s.ea + 4) &&& 0xFFFE#16)) ∧
    (canLoad s s.ea 8 →
      (∃ t, exec (.movCqrnEa n) s = .next t ∧ coLoaded s t n 8 s.ea) ∧
      ∃ t, exec (.movCqrnEaInc n) s = .next t ∧ coLoaded s t n 8 ((s.ea + 8) &&& 0xFFFE#16))

/-- For the eight coprocessor stores, with the words FmxDH (x = 8 to F): where a coprocessor is fitted, memory is in
its canonical form and MEMMAP has writable memory outside the ROM window at the 1, 2, 4 or 8 bytes from DSEG:EA on
(bit 0 of EA dropped but for the byte), the instruction answers a next state in which those bytes are the coprocessor
registers from CRm on, the lowest-numbered at the lowest address (free values where the coprocessor is a device, log
14) and every other byte of memory reads as before; EA is higher by the size, with bit 0 dropped but for the byte, for
[EA+] and unchanged otherwise; no flag, register or other special register changes but AR, the store record and the
count of drawn values (logs 6, 15, 27); PC is NextPC. The grouping and order of the CR registers and the three kinds
of coprocessor (R75, R388, D30; log 14 for the kinds, log 26 for order and wrap) and the wrap of offsets (R115, D13,
log 26) are decisions of the spec. -/
def Obligations.CoprocessorStores : Prop :=
  ∀ (m : Reg) (s : State), s.dev.coprocessor ≠ .absent → s.mem.wf →
    encode (.movEaCrm m) = [firstWord 0xF#4 m 0x8D#8] ∧ encode (.movEaIncCrm m) = [firstWord 0xF#4 m 0x9D#8] ∧
    encode (.movEaCerm m) = [firstWord 0xF#4 m 0xAD#8] ∧ encode (.movEaIncCerm m) = [firstWord 0xF#4 m 0xBD#8] ∧
    encode (.movEaCxrm m) = [firstWord 0xF#4 m 0xCD#8] ∧ encode (.movEaIncCxrm m) = [firstWord 0xF#4 m 0xDD#8] ∧
    encode (.movEaCqrm m) = [firstWord 0xF#4 m 0xED#8] ∧ encode (.movEaIncCqrm m) = [firstWord 0xF#4 m 0xFD#8] ∧
    (canStore s s.ea 1 →
      (∃ t, exec (.movEaCrm m) s = .next t ∧ coStored s t m 1 s.ea) ∧
      ∃ t, exec (.movEaIncCrm m) s = .next t ∧ coStored s t m 1 (s.ea + 1)) ∧
    (canStore s s.ea 2 →
      (∃ t, exec (.movEaCerm m) s = .next t ∧ coStored s t m 2 s.ea) ∧
      ∃ t, exec (.movEaIncCerm m) s = .next t ∧ coStored s t m 2 ((s.ea + 2) &&& 0xFFFE#16)) ∧
    (canStore s s.ea 4 →
      (∃ t, exec (.movEaCxrm m) s = .next t ∧ coStored s t m 4 s.ea) ∧
      ∃ t, exec (.movEaIncCxrm m) s = .next t ∧ coStored s t m 4 ((s.ea + 4) &&& 0xFFFE#16)) ∧
    (canStore s s.ea 8 →
      (∃ t, exec (.movEaCqrm m) s = .next t ∧ coStored s t m 8 s.ea) ∧
      ∃ t, exec (.movEaIncCqrm m) s = .next t ∧ coStored s t m 8 ((s.ea + 8) &&& 0xFFFE#16))

/-- DAA Rn has the word 8n1FH and always answers a next state; some row of the table of R403 fits the old C, HC and
Rn, and for the row that fits Rn is Rn plus its adjustment modulo 256, C is the row's C flag after adjustment, Z says
that Rn is zero, S is its bit 7, HC is the carry out of bit 3 of the adjusting addition; OV, MIE and ELEVEL stay, and
no other register, special register or byte of memory changes; PC is NextPC. -/
def Obligations.DecimalAdjustAdd : Prop :=
  ∀ (n : Reg) (s : State), encode (.daaRn n) = [firstWord 0x8#4 n 0x1F#8] ∧
    (∃ x ∈ daaRows, x.1.fits (flagC s.psw) (flagHC s.psw) (s.reg n)) ∧
    ∃ t, exec (.daaRn n) s = .next t ∧ onlyRegs s t s.nextPc [n] ∧
      ∀ x ∈ daaRows, x.1.fits (flagC s.psw) (flagHC s.psw) (s.reg n) →
        t.reg n = s.reg n + x.1.adj ∧
          pswIs t.psw x.2 (decide (t.reg n = 0)) (t.reg n).msb (flagOV s.psw) (flagMIE s.psw)
            (decide (15 < (s.reg n).toNat % 16 + x.1.adj.toNat % 16)) (elevelOf s.psw)

/-- DAS Rn has the word 8n3FH and always answers a next state; some row of the table of R404 fits the old C, HC and
Rn, and for the row that fits Rn is Rn minus its adjustment modulo 256, C is 1 if it was 1 or the adjustment is
greater than Rn (a decision of the spec, log 25), Z says that Rn is zero, S is its bit 7, HC is the borrow into bit 3
of the adjusting subtraction; OV, MIE and ELEVEL stay, and no other register, special register or byte of memory
changes; PC is NextPC. -/
def Obligations.DecimalAdjustSubtract : Prop :=
  ∀ (n : Reg) (s : State), encode (.dasRn n) = [firstWord 0x8#4 n 0x3F#8] ∧
    (∃ x ∈ dasRows, x.fits (flagC s.psw) (flagHC s.psw) (s.reg n)) ∧
    ∃ t, exec (.dasRn n) s = .next t ∧ onlyRegs s t s.nextPc [n] ∧
      ∀ x ∈ dasRows, x.fits (flagC s.psw) (flagHC s.psw) (s.reg n) →
        t.reg n = s.reg n - x.adj ∧
          pswIs t.psw (flagC s.psw || decide ((s.reg n).toNat < x.adj.toNat)) (decide (t.reg n = 0)) (t.reg n).msb
            (flagOV s.psw) (flagMIE s.psw) (decide ((s.reg n).toNat % 16 < x.adj.toNat % 16)) (elevelOf s.psw)

/-- Where Rn and Rm each hold two decimal digits a and b: ADD Rn,Rm and then DAA Rn answer next states and end with
two decimal digits r in Rn such that a + b = r + 100 C; SUB Rn,Rm and then DAS Rn answer next states and end with two
decimal digits r such that a + 100 C = r + b. -/
def Obligations.DecimalArithmeticIsCorrect : Prop :=
  ∀ (n m : Reg) (s : State), isBcd (s.reg n) → isBcd (s.reg m) →
    (∃ t u, exec (.addRnRm n m) s = .next t ∧ exec (.daaRn n) t = .next u ∧ isBcd (u.reg n) ∧
      bcdValue (s.reg n) + bcdValue (s.reg m) = bcdValue (u.reg n) + 100 * (flagC u.psw).toNat) ∧
    ∃ t u, exec (.subRnRm n m) s = .next t ∧ exec (.dasRn n) t = .next u ∧ isBcd (u.reg n) ∧
      bcdValue (s.reg n) + 100 * (flagC u.psw).toNat = bcdValue (u.reg n) + bcdValue (s.reg m)

/-- The eight EXTBW ERn (n = 0, 2, ..., 14) have the words 810FH, 832FH, 854FH, 876FH, 898FH, 8BAFH, 8DCFH and 8FEFH
and always answer a next state: ERn is Rn sign-extended, Rn itself and every other register unchanged, Z says that Rn
is zero, S is its bit 7; no other flag, special register or byte of memory changes and PC is NextPC. -/
def Obligations.SignExtension : Prop :=
  ∀ (s : State), ∀ x ∈ [((0 : Reg), Instr.extbwEr0, 0x810F#16), (2, .extbwEr2, 0x832F#16), (4, .extbwEr4, 0x854F#16),
      (6, .extbwEr6, 0x876F#16), (8, .extbwEr8, 0x898F#16), (10, .extbwEr10, 0x8BAF#16), (12, .extbwEr12, 0x8DCF#16),
      (14, .extbwEr14, 0x8FEF#16)],
    encode x.2.1 = [x.2.2] ∧
    ∃ t, exec x.2.1 s = .next t ∧ onlyRegs s t s.nextPc [x.1 + 1] ∧ t.er x.1 = (s.reg x.1).signExtend 16 ∧
      zsFlags s.psw t.psw (decide (s.reg x.1 = 0)) (s.reg x.1).msb

/-- SB, RB and TB Rn.bit_offset have the words AnH 0bit 0H, AnH 0bit 2H and AnH 0bit 1H and always answer a next
state: Z is the inverse of the bit before, SB sets the bit, RB clears it, TB keeps it, the other seven bits stay; no
other flag, register, special register or byte of memory changes and PC is NextPC. -/
def Obligations.RegisterBitAccess : Prop :=
  ∀ (n : Reg) (bit : BitVec 3) (s : State),
    encode (.sbRnBit n bit) = [firstWord 0xA#4 n (0b0#1 ++ bit ++ 0x0#4)] ∧
    encode (.rbRnBit n bit) = [firstWord 0xA#4 n (0b0#1 ++ bit ++ 0x2#4)] ∧
    encode (.tbRnBit n bit) = [firstWord 0xA#4 n (0b0#1 ++ bit ++ 0x1#4)] ∧
    (∃ t, exec (.sbRnBit n bit) s = .next t ∧ onlyRegs s t s.nextPc [n] ∧
      t.reg n = s.reg n ||| (1#8 <<< bit.toNat) ∧ zFlag s.psw t.psw (!(s.reg n).getLsbD bit.toNat)) ∧
    (∃ t, exec (.rbRnBit n bit) s = .next t ∧ onlyRegs s t s.nextPc [n] ∧
      t.reg n = s.reg n &&& ~~~(1#8 <<< bit.toNat) ∧ zFlag s.psw t.psw (!(s.reg n).getLsbD bit.toNat)) ∧
    ∃ t, exec (.tbRnBit n bit) s = .next t ∧ onlyRegs s t s.nextPc [] ∧
      zFlag s.psw t.psw (!(s.reg n).getLsbD bit.toNat)

/-- SB, RB and TB Dbitadr have the words A0H 1bit 0H, A0H 1bit 2H and A0H 1bit 1H with Dadr after them. Where memory
is in its canonical form and MEMMAP has writable memory outside the ROM window at DSEG:Dadr, SB and RB answer a next
state in which that byte has the bit set or cleared, its other bits kept, and every other byte of memory reads as
before; where MEMMAP has readable memory there, TB answers a next state with memory unchanged. Z is the inverse of the
bit before; no other flag and no register changes, of the special registers only AR and the store record (R71 and
R148; their forms are the model's readings, logs 27 and 15); PC is NextPC. -/
def Obligations.MemoryBitAccess : Prop :=
  ∀ (bit : BitVec 3) (dadr : Word) (s : State), s.mem.wf →
    encode (.sbDbitadr bit dadr) = [firstWord 0xA#4 0x0#4 (0b1#1 ++ bit ++ 0x0#4), dadr] ∧
    encode (.rbDbitadr bit dadr) = [firstWord 0xA#4 0x0#4 (0b1#1 ++ bit ++ 0x2#4), dadr] ∧
    encode (.tbDbitadr bit dadr) = [firstWord 0xA#4 0x0#4 (0b1#1 ++ bit ++ 0x1#4), dadr] ∧
    (canStore s dadr 1 →
      (∃ t, exec (.sbDbitadr bit dadr) s = .next t ∧
        stored s { t with psw := s.psw } s.nextPc2 dadr
          [s.mem.read (dataKey s.dev s.dseg dadr) ||| (1#8 <<< bit.toNat)] s.ea ∧
        zFlag s.psw t.psw (!(s.mem.read (dataKey s.dev s.dseg dadr)).getLsbD bit.toNat)) ∧
      ∃ t, exec (.rbDbitadr bit dadr) s = .next t ∧
        stored s { t with psw := s.psw } s.nextPc2 dadr
          [s.mem.read (dataKey s.dev s.dseg dadr) &&& ~~~(1#8 <<< bit.toNat)] s.ea ∧
        zFlag s.psw t.psw (!(s.mem.read (dataKey s.dev s.dseg dadr)).getLsbD bit.toNat)) ∧
    (canLoad s dadr 1 →
      ∃ t, exec (.tbDbitadr bit dadr) s = .next t ∧
        onlySpecial s { t with psw := s.psw } s.nextPc2 { s.special with ar := dadr } ∧
        zFlag s.psw t.psw (!(s.mem.read (dataKey s.dev s.dseg dadr)).getLsbD bit.toNat))

/-- SC, RC and CPLC have the words ED80H, EB7FH and FECFH and always answer a next state: C is 1, 0 or the inverse of
C; no other flag, no register, special register or byte of memory changes and PC is NextPC. NOP has the word FE8FH and
always answers a next state: PC is NextPC, the prefix and block latches are clear, and PSW, every register, every
special register and every byte of memory are as before. -/
def Obligations.CarryFlagAndNop : Prop :=
  (∀ s : State, encode .sc = [0xED80#16] ∧ encode .rc = [0xEB7F#16] ∧ encode .cplc = [0xFECF#16] ∧
    (∃ t, exec .sc s = .next t ∧ onlyRegs s t s.nextPc [] ∧ cFlag s.psw t.psw true) ∧
    (∃ t, exec .rc s = .next t ∧ onlyRegs s t s.nextPc [] ∧ cFlag s.psw t.psw false) ∧
    ∃ t, exec .cplc s = .next t ∧ onlyRegs s t s.nextPc [] ∧ cFlag s.psw t.psw (!flagC s.psw)) ∧
  ∀ s : State, encode .nop = [0xFE8F#16] ∧ ∃ t, exec .nop s = .next t ∧ onlyRegs s t s.nextPc [] ∧ t.psw = s.psw

/-- EI and DI have the words ED08H and EBF7H and always answer a next state in which MIE is 1 or 0 and no other flag,
register, special register or byte of memory changes; PC is NextPC. The windows are the model's fields behind R576 and
R577 (logs 11, 12): after an EI that changed MIE two boundaries of its window are open, after DI none of the window of
a cleared MIE is. At the boundary after DI no maskable request is accepted. -/
def Obligations.InterruptEnableInstructions : Prop :=
  ∀ s : State, encode .ei = [0xED08#16] ∧ encode .di = [0xEBF7#16] ∧
    (∃ t, exec .ei s = .next t ∧ goesOn t s.nextPc ∧ sameRegsBut s t [] ∧ sameMemBut s t [] ∧ t.special = s.special ∧
      pswIs t.psw (flagC s.psw) (flagZ s.psw) (flagS s.psw) (flagOV s.psw) true (flagHC s.psw) (elevelOf s.psw) ∧
      t.eiWindow = (if flagMIE s.psw = true then s.eiWindow - 1 else 2) ∧ t.mieWindow = s.mieWindow - 1 ∧
      t.levelView = none) ∧
    ∃ t, exec .di s = .next t ∧ goesOn t s.nextPc ∧ sameRegsBut s t [] ∧ sameMemBut s t [] ∧ t.special = s.special ∧
      pswIs t.psw (flagC s.psw) (flagZ s.psw) (flagS s.psw) (flagOV s.psw) false (flagHC s.psw) (elevelOf s.psw) ∧
      t.eiWindow = s.eiWindow - 1 ∧ t.mieWindow = 0 ∧ t.levelView = none ∧ ∀ v u, t.boundary ≠ .accept (.mi v) u

/-- BGE, BLT, BGT, BLE, BNE, BEQ and BAL have the words C0H, C1H, C2H, C3H, C8H, C9H and CEH with the displacement r,
and always answer a next state: PC is NextPC + 2 r (r signed, modulo 65536) if C = 0; C = 1; C = 0 and Z = 0; Z = 1 or
C = 1; Z = 0; Z = 1; always; and NextPC otherwise. PSW, CSR and everything else is as before. -/
def Obligations.UnsignedBranches : Prop :=
  ∀ (disp : BitVec 8) (s : State),
    encode (.bgeRadr disp) = [firstWord 0xC#4 0x0#4 disp] ∧
    encode (.bltRadr disp) = [firstWord 0xC#4 0x1#4 disp] ∧
    encode (.bgtRadr disp) = [firstWord 0xC#4 0x2#4 disp] ∧
    encode (.bleRadr disp) = [firstWord 0xC#4 0x3#4 disp] ∧
    encode (.bneRadr disp) = [firstWord 0xC#4 0x8#4 disp] ∧
    encode (.beqRadr disp) = [firstWord 0xC#4 0x9#4 disp] ∧
    encode (.balRadr disp) = [firstWord 0xC#4 0xE#4 disp] ∧
    (∃ t, exec (.bgeRadr disp) s = .next t ∧ branched s t (!flagC s.psw) disp) ∧
    (∃ t, exec (.bltRadr disp) s = .next t ∧ branched s t (flagC s.psw) disp) ∧
    (∃ t, exec (.bgtRadr disp) s = .next t ∧ branched s t (!flagC s.psw && !flagZ s.psw) disp) ∧
    (∃ t, exec (.bleRadr disp) s = .next t ∧ branched s t (flagZ s.psw || flagC s.psw) disp) ∧
    (∃ t, exec (.bneRadr disp) s = .next t ∧ branched s t (!flagZ s.psw) disp) ∧
    (∃ t, exec (.beqRadr disp) s = .next t ∧ branched s t (flagZ s.psw) disp) ∧
    (∃ t, exec (.balRadr disp) s = .next t ∧ branched s t (true) disp)

/-- BGES, BLTS, BGTS, BLES, BNV, BOV, BPS and BNS have the words C4H, C5H, C6H, C7H, CAH, CBH, CCH and CDH with the
displacement r, and always answer a next state: PC is NextPC + 2 r (r signed, modulo 65536) if OV xor S is 0; it is 1;
(OV xor S) or Z is 0; it is 1; OV = 0; OV = 1; S = 0; S = 1; and NextPC otherwise. PSW, CSR and everything else is as
before. The OR in BGTS and BLES is a decision of the spec (log 24). -/
def Obligations.SignedBranches : Prop :=
  ∀ (disp : BitVec 8) (s : State),
    encode (.bgesRadr disp) = [firstWord 0xC#4 0x4#4 disp] ∧
    encode (.bltsRadr disp) = [firstWord 0xC#4 0x5#4 disp] ∧
    encode (.bgtsRadr disp) = [firstWord 0xC#4 0x6#4 disp] ∧
    encode (.blesRadr disp) = [firstWord 0xC#4 0x7#4 disp] ∧
    encode (.bnvRadr disp) = [firstWord 0xC#4 0xA#4 disp] ∧
    encode (.bovRadr disp) = [firstWord 0xC#4 0xB#4 disp] ∧
    encode (.bpsRadr disp) = [firstWord 0xC#4 0xC#4 disp] ∧
    encode (.bnsRadr disp) = [firstWord 0xC#4 0xD#4 disp] ∧
    (∃ t, exec (.bgesRadr disp) s = .next t ∧ branched s t (!(flagOV s.psw ^^ flagS s.psw)) disp) ∧
    (∃ t, exec (.bltsRadr disp) s = .next t ∧ branched s t (flagOV s.psw ^^ flagS s.psw) disp) ∧
    (∃ t, exec (.bgtsRadr disp) s = .next t ∧ branched s t (!((flagOV s.psw ^^ flagS s.psw) || flagZ s.psw)) disp) ∧
    (∃ t, exec (.blesRadr disp) s = .next t ∧ branched s t ((flagOV s.psw ^^ flagS s.psw) || flagZ s.psw) disp) ∧
    (∃ t, exec (.bnvRadr disp) s = .next t ∧ branched s t (!flagOV s.psw) disp) ∧
    (∃ t, exec (.bovRadr disp) s = .next t ∧ branched s t (flagOV s.psw) disp) ∧
    (∃ t, exec (.bpsRadr disp) s = .next t ∧ branched s t (!flagS s.psw) disp) ∧
    (∃ t, exec (.bnsRadr disp) s = .next t ∧ branched s t (flagS s.psw) disp)

/-- After CMP Rn,Rm, CMP Rn,#imm8 and CMP ERn,ERm of a with b, a next branch BGE, BLT, BGT or BLE is taken exactly if
a >= b, a < b, a > b or a <= b read as unsigned numbers; BGES, BLTS, BGTS or BLES exactly if the same holds read as
signed numbers; BNE and BEQ exactly if a and b differ or are equal. -/
def Obligations.CompareThenBranchDecidesOrder : Prop :=
  ∀ (n m : Reg) (imm disp : Byte) (s : State),
    (∃ t, exec (.cmpRnRm n m) s = .next t ∧ branchesByOrder t (s.reg n) (s.reg m) disp) ∧
    (∃ t, exec (.cmpRnImm8 n imm) s = .next t ∧ branchesByOrder t (s.reg n) imm disp) ∧
    ∃ t, exec (.cmpErnErm n m) s = .next t ∧ branchesByOrder t (s.er n) (s.er m) disp

/-- B Cadr and BL Cadr, where the model is LARGE or the segment nibble is 0, B ERn, BL ERn and RT answer a next state:
PC is Cadr[15:0], ERn or LR with bit 0 dropped; CSR is the segment nibble (B Cadr, BL Cadr) or LCSR (RT) in the LARGE
model and unchanged otherwise; BL puts NextPC with bit 0 dropped in LR and, in the LARGE model, CSR in LCSR; nothing
else changes. In the SMALL model B Cadr and BL Cadr with a nonzero nibble are the refusal segmentOutsideSmall. The
SMALL rules are a decision of the spec (R68, D8, log 16), and so is bit 0 of LR (R63, D10, log 17). -/
def Obligations.FarBranchesAndReturn : Prop :=
  ∀ (g : CodeSeg) (cadr : Word) (n : Reg) (s : State),
    encode (.bCadr g cadr) = [firstWord 0xF#4 g 0x00#8, cadr] ∧ encode (.blCadr g cadr) = [firstWord 0xF#4 g 0x01#8, cadr] ∧
    encode (.bErn n) = [firstWord 0xF#4 0x0#4 (n ++ 0x2#4)] ∧ encode (.blErn n) = [firstWord 0xF#4 0x0#4 (n ++ 0x3#4)] ∧
    encode .rt = [0xFE1F#16] ∧
    (s.isLarge = true ∨ g = 0 →
      (∃ t, exec (.bCadr g cadr) s = .next t ∧
        onlySpecial s t cadr { s.special with csr := if s.isLarge then g else s.csr }) ∧
      ∃ t, exec (.blCadr g cadr) s = .next t ∧
        onlySpecial s t cadr
          { s.special with
            csr := if s.isLarge then g else s.csr
            lcsr := if s.isLarge then s.csr else s.lcsr
            lr := s.nextPc2 &&& 0xFFFE#16 }) ∧
    (s.isLarge = false → g ≠ 0 →
      exec (.bCadr g cadr) s = .refused .segmentOutsideSmall ∧ exec (.blCadr g cadr) s = .refused .segmentOutsideSmall) ∧
    (∃ t, exec (.bErn n) s = .next t ∧ onlySpecial s t (s.er n) s.special) ∧
    (∃ t, exec (.blErn n) s = .next t ∧
      onlySpecial s t (s.er n)
        { s.special with
          lcsr := if s.isLarge then s.csr else s.lcsr
          lr := s.nextPc &&& 0xFFFE#16 }) ∧
    ∃ t, exec .rt s = .next t ∧ onlySpecial s t s.lr { s.special with csr := if s.isLarge then s.lcsr else s.csr }

/-- From a state that meets the invariant: after BL Cadr (where the model is LARGE or the nibble is 0) or BL ERn, RT
run at the target answers a next state whose PC is the address of the instruction after BL, whose CSR is that of BL,
and whose PSW, SP, general registers and memory are as before BL. BL has changed LR and, in the LARGE model, LCSR
(R458, R459); of them and of the other special registers nothing is said here. The SMALL rules are a decision of the
spec (R68, D8, log 16). -/
def Obligations.CallThenReturn : Prop :=
  ∀ (g : CodeSeg) (cadr : Word) (n : Reg) (s : State), Inv s →
    (s.isLarge = true ∨ g = 0 →
      ∃ t u, exec (.blCadr g cadr) s = .next t ∧ exec .rt t = .next u ∧ u.pc = s.pc + 4 ∧ u.csr = s.csr ∧ u.psw = s.psw ∧
        u.sp = s.sp ∧ sameRegsBut s u [] ∧ sameMemBut s u []) ∧
    ∃ t u, exec (.blErn n) s = .next t ∧ exec .rt t = .next u ∧ u.pc = s.pc + 2 ∧ u.csr = s.csr ∧ u.psw = s.psw ∧
      u.sp = s.sp ∧ sameRegsBut s u [] ∧ sameMemBut s u []

/-- RTI has the word FE0FH. With k the level it uses (ELEVEL, but for the draw of R578, decision D12 of the spec, log
13): where k is not 0 and the registers of level k are present, it answers a next state: PC is ELRk with bit 0
dropped, PSW is EPSWk with all eight bits, CSR is ECSRk in the LARGE model and unchanged in the SMALL one; every
register, byte of memory and other special register is as before and the block latches are clear. Where k is 0 it is
the refusal rtiAtLevel0 (a decision of the spec, log 21). The SMALL rule is a decision of the spec too (R68, D8, log
16). -/
def Obligations.ReturnFromInterruptEffect : Prop :=
  ∀ s : State, encode .rti = [0xFE0F#16] ∧
    (s.useLevel = 0 → exec .rti s = .refused .rtiAtLevel0) ∧
    (s.useLevel ≠ 0 → s.levelPresent s.useLevel = true →
      ∃ t, exec .rti s = .next t ∧ some t.psw = s.epsw s.useLevel ∧
        onlySpecial s { t with psw := s.psw } (s.elr s.useLevel)
          { s.special with csr := if s.isLarge then s.ecsr s.useLevel else s.csr })

/-- SWI #snum has the word E5H 00 snum. Where the vector word at code address 0:(0080H + 2 snum) can be fetched, it
answers a next state at every ELEVEL: ELR1 is NextPC with bit 0 dropped, ECSR1 is CSR (LARGE model), EPSW1 is the old
PSW, ELEVEL is 1, MIE is 0, the other flags stay, CSR is 0 (LARGE model), PC is the vector word with bit 0 dropped,
the block latches are set; nothing else changes. That it lowers ELEVEL from 2 or 3 is a decision of the spec (log 31).
BRK has the word FFFFH. With k the level it uses (ELEVEL, but for the draw of R578, decision D12 of the spec, log 13):
where k is 0 or 1 and the word at code address 0:0004H can be fetched, it answers a next state: ELR2 is NextPC with
bit 0 dropped, ECSR2 is CSR (LARGE model), EPSW2 is the old PSW, ELEVEL is 2, every flag and MIE stay, CSR is 0 (LARGE
model), PC is the vector word with bit 0 dropped, the block latches are set; nothing else changes. Where k is 2 or 3
and the words at 0:0000H and 0:0002H can be fetched, it answers the state after the reset sequence: PSW, CSR and DSR
0, SP the first word, PC the second with bit 0 dropped, the block latches set, PFX clear; that memory keeps its
contents is derived by the spec (R561), that the pending requests stay is the model's reading of R504 (log 5), and of
every other register nothing is said. CSR and the block latches are an inference of the spec (log 35). Its decisions
are bit 0 of ELR1 and ELR2 (R63, D10, log 17) and the SMALL model, where ECSRk and CSR stay as they are (R68, D8, log
16). The model's own windows are one boundary shorter after an entry (logs 11 to 13). -/
def Obligations.SoftwareEntries : Prop :=
  (∀ (snum : BitVec 6) (s : State), encode (.swiSnum snum) = [firstWord 0xE#4 0x5#4 (0b00#2 ++ snum)] ∧
    (fetchable s 0 (0x0080#16 + 2#16 * snum.zeroExtend 16) 2 →
      ∃ t, exec (.swiSnum snum) s = .next t ∧
        entered s t 1 (0x0080#16 + 2#16 * snum.zeroExtend 16) s.nextPc false s.psw)) ∧
  ∀ s : State, encode .brk = [0xFFFF#16] ∧
    (s.useLevel.toNat ≤ 1 → fetchable s 0 0x0004#16 2 →
      ∃ t, exec .brk s = .next t ∧ entered s t 2 0x0004#16 s.nextPc (flagMIE s.psw) s.psw) ∧
    (2 ≤ s.useLevel.toNat → fetchable s 0 0x0000#16 4 → ∃ t, exec .brk s = .next t ∧ wasReset s t)

/-- MUL ERn,Rm has the word Fnm4H and always answers a next state: ERn is the product of the old Rn and Rm read as
unsigned numbers, Z says that it is zero; no other flag, register, special register or byte of memory changes and PC
is NextPC. That the operands are unsigned is a decision of the spec (log 22). DIV ERn,Rm has the word Fnm9H. Where Rm
is neither Rn nor R[n+1] it answers a next state: for a nonzero Rm, ERn is the unsigned quotient and Rm the remainder
of the old ERn by the old Rm, C is 0 and Z says that the quotient is zero; for a zero Rm, C is 1 and nothing is said
of ERn, Rm and Z, which are free values (log 23); S, OV, HC, MIE, ELEVEL and every other register, special register
and byte of memory stay, but for the count of drawn values, and PC is NextPC. Where Rm is Rn or R[n+1] it is the
refusal divisorInsideDividend. Unsigned operands, the overlap and the free values are decisions of the spec (logs 21
to 23). -/
def Obligations.MultiplyAndDivide : Prop :=
  (∀ (n m : Reg) (s : State), encode (.mulErnRm n m) = [firstWord 0xF#4 n (m ++ 0x4#4)] ∧
    ∃ t, exec (.mulErnRm n m) s = .next t ∧ onlyRegs s t s.nextPc [n, n + 1] ∧
      (t.er n).toNat = (s.reg n).toNat * (s.reg m).toNat ∧
      zFlag s.psw t.psw (decide ((s.reg n).toNat * (s.reg m).toNat = 0))) ∧
  ∀ (n m : Reg) (s : State), encode (.divErnRm n m) = [firstWord 0xF#4 n (m ++ 0x9#4)] ∧
    (m = n ∨ m = n + 1 → exec (.divErnRm n m) s = .refused .divisorInsideDividend) ∧
    (m ≠ n → m ≠ n + 1 → s.reg m ≠ 0 →
      ∃ t, exec (.divErnRm n m) s = .next t ∧ onlyRegs s t s.nextPc [n, n + 1, m] ∧
        (t.er n).toNat = (s.er n).toNat / (s.reg m).toNat ∧ (t.reg m).toNat = (s.er n).toNat % (s.reg m).toNat ∧
        pswIs t.psw false (decide ((s.er n).toNat / (s.reg m).toNat = 0)) (flagS s.psw) (flagOV s.psw) (flagMIE s.psw)
          (flagHC s.psw) (elevelOf s.psw)) ∧
    (m ≠ n → m ≠ n + 1 → s.reg m = 0 →
      ∃ t, exec (.divErnRm n m) s = .next t ∧ continuesAt s t s.nextPc ∧ sameRegsBut s t [n, n + 1, m] ∧
        sameMemBut s t [] ∧ t.special = { s.special with draws := s.draws + 1 } ∧
        pswIs t.psw true (flagZ t.psw) (flagS s.psw) (flagOV s.psw) (flagMIE s.psw) (flagHC s.psw) (elevelOf s.psw))

/-- INC [EA] and DEC [EA] have the words FE2FH and FE3FH. Where memory is in its canonical form and MEMMAP has
writable memory outside the ROM window at DSEG:EA, they answer a next state: that byte v becomes v + 1 or v - 1 modulo
256 and every other byte of memory reads as before; Z says that the result is zero, S is its bit 7, OV is 1 iff v is
7FH (INC) or 80H (DEC), HC is 1 iff the low four bits of v are FH (INC) or 0H (DEC), C, MIE and ELEVEL stay; no
register changes, of the special registers only AR and the store record (R71 and R148; their forms are the model's
readings, logs 27 and 15); EA stays; PC is NextPC. -/
def Obligations.MemoryIncrementDecrement : Prop :=
  ∀ s : State, encode .incEa = [0xFE2F#16] ∧ encode .decEa = [0xFE3F#16] ∧
    (s.mem.wf → canStore s s.ea 1 →
      (∃ t, exec .incEa s = .next t ∧
        stored s { t with psw := s.psw } s.nextPc s.ea [s.mem.read (dataKey s.dev s.dseg s.ea) + 1] s.ea ∧
        pswIs t.psw (flagC s.psw) (decide (s.mem.read (dataKey s.dev s.dseg s.ea) = 0xFF#8))
          (s.mem.read (dataKey s.dev s.dseg s.ea) + 1).msb (decide (s.mem.read (dataKey s.dev s.dseg s.ea) = 0x7F#8))
          (flagMIE s.psw) (decide ((s.mem.read (dataKey s.dev s.dseg s.ea)).toNat % 16 = 15)) (elevelOf s.psw)) ∧
      ∃ t, exec .decEa s = .next t ∧
        stored s { t with psw := s.psw } s.nextPc s.ea [s.mem.read (dataKey s.dev s.dseg s.ea) - 1] s.ea ∧
        pswIs t.psw (flagC s.psw) (decide (s.mem.read (dataKey s.dev s.dseg s.ea) = 0x01#8))
          (s.mem.read (dataKey s.dev s.dseg s.ea) - 1).msb (decide (s.mem.read (dataKey s.dev s.dseg s.ea) = 0x80#8))
          (flagMIE s.psw) (decide ((s.mem.read (dataKey s.dev s.dseg s.ea)).toNat % 16 = 0)) (elevelOf s.psw))

/-- For every state s: if an instruction i answers a next state t, then PFX of t is set exactly if i is a DSR prefix
word, the IBLOCK of R506 exactly if i is SWI or BRK (the completion of any other instruction clears it, a prefix word
too), and the IBLOCK of R78 and R260 exactly if i is SWI, BRK or a prefix word. The spec uses one name for the two,
and the model holds both; every boundary they decide is the same (log 28). Every entry, acceptance and reset that
answers a next state leaves both set and PFX clear. At a boundary where one of the three is set no request is
accepted: with the reset input not asserted the next instruction runs; with it asserted the reset is taken all the
same (R560, decision D19 of the spec, log 36). -/
def Obligations.BlockingLatches : Prop :=
  ∀ s t : State,
    (∀ i, exec i s = .next t →
      (t.entryBlock = true ↔ (∃ snum, i = .swiSnum snum) ∨ i = .brk) ∧
      (t.iblock = true ↔ (∃ snum, i = .swiSnum snum) ∨ i = .brk ∨ isPrefix i) ∧ (t.pfx = true ↔ isPrefix i)) ∧
    (∀ k vec ret c saved, s.enter k vec ret c saved = .next t →
      t.iblock = true ∧ t.entryBlock = true ∧ t.pfx = false) ∧
    (∀ q, s.acceptRequest q = .next t → t.iblock = true ∧ t.entryBlock = true ∧ t.pfx = false) ∧
    (s.acceptReset = .next t → t.iblock = true ∧ t.entryBlock = true ∧ t.pfx = false) ∧
    (s.iblock = true ∨ s.entryBlock = true ∨ s.pfx = true → s.boundary = if s.resetIn then .reset else .run s)

/-- At a boundary with the reset input not asserted and no latch set: if some pending request is acceptable (NMICE
with HAS_NMICE; NMI with a level of at most 2; MI of a source of the device with MIE = 1 and a level of at most 1) and
either it is NMICE or NMI or no window of R576 and R577 is open, then one that is pending and acceptable is accepted,
and no acceptable pending request has a higher level; if none is acceptable and the window of R577 is closed, the next
instruction runs. The level is ELEVEL, or, at the boundary after a MOV PSW that changed it, the level drawn there
(R578, log 13). Where a maskable request is accepted, it is that of a pending source of the device, and, where the
device's rule is a fixed order, of the first pending source in that order (R12, log 10). That an acceptable pending
request is accepted at this very boundary, with no latency, the highest level first, and that the reset input stands
before all of them, are decisions of the spec (R508, decision D32; R560, decision D19; log 36). -/
def Obligations.AcceptanceTable : Prop :=
  ∀ s : State, unblocked s →
    ((∃ q ∈ s.req, acceptable s q ∧ (2 ≤ levelOf q ∨ noWindow s)) →
      ∃ q ∈ s.req, s.boundary = .accept q s ∧ acceptable s q ∧ ∀ q' ∈ s.req, acceptable s q' → levelOf q' ≤ levelOf q) ∧
    ((∀ q ∈ s.req, ¬ acceptable s q) → s.mieWindow = 0 → s.boundary = .run s) ∧
    (∀ v u, s.boundary = .accept (.mi v) u → v ∈ s.dev.miSources ∧ .mi v ∈ s.req ∧
      (s.dev.miRule = .order → s.dev.miSources.find? (fun i => decide (Request.mi i ∈ s.req)) = some v)) ∧
    (s.levelView = none → s.useLevel = elevelOf s.psw) ∧ ∀ k, s.levelView = some k → s.useLevel = k

/-- Where the boundary of s accepts the request q at u (s itself, or s after a free choice was drawn): step s, if the
vector word can be fetched (and the level-3 registers are present for NMICE), is a next state in which q is no longer
in REQ and every other request still is, ELR of the level holds the PC of the boundary with bit 0 dropped, ECSR of the
level CSR (LARGE model), EPSW of the level the old PSW, ELEVEL is 3, 2 or 1, MIE is 0 for MI and unchanged otherwise,
CSR is 0 (LARGE model), PC is the word at 0006H, 0008H or the vector of q with bit 0 dropped, the block latches are
set, and nothing else has changed but, for MI, the count of drawn values (logs 6, 10). Inside the window of R577,
where MIE is 0, EPSW1 of an MI is the old PSW but for its MIE bit, which is free (log 12; the PSW of this boundary,
log 38); NMI and NMICE are not touched by it. The sequence of NMICE and the removal from REQ are decisions of the spec
(logs 10, 30), and so are the SMALL model, where ECSRk and CSR stay as they are (R68, D8, log 16), and bit 0 of ELRk
(R63, D10, log 17). The model's own windows are one boundary shorter (logs 11 to 13). -/
def Obligations.AcceptanceEntry : Prop :=
  ∀ (s u : State) (q : Request), s.boundary = .accept q u →
    match q with
    | .nmice => u.levelPresent 3 = true → fetchable u 0 0x0006#16 2 →
        ∃ t, step s = .next t ∧
          entered { u with req := u.req.filter (· ≠ q) } t 3 0x0006#16 u.pc (flagMIE u.psw) u.psw
    | .nmi => fetchable u 0 0x0008#16 2 →
        ∃ t, step s = .next t ∧
          entered { u with req := u.req.filter (· ≠ q) } t 2 0x0008#16 u.pc (flagMIE u.psw) u.psw
    | .mi v => fetchable u 0 (miVector v) 2 →
        ∃ t saved, step s = .next t ∧
          entered { u with req := u.req.filter (· ≠ q), draws := u.draws + 1 } t 1 (miVector v) u.pc false saved ∧
          pswIs saved (flagC u.psw) (flagZ u.psw) (flagS u.psw) (flagOV u.psw) (flagMIE saved) (flagHC u.psw)
            (elevelOf u.psw) ∧
          (flagMIE u.psw = true ∨ u.mieWindow = 0 → saved = u.psw)

/-- At a boundary with the reset input not asserted, no latch set and no NMICE or NMI acceptable, where v is the
maskable source the device chooses (log 10): with MIE = 1 and a level of at most 1, its request is accepted if the
window of EI is closed and accepted or left, by a free choice, if it is open; with MIE = 0, it is left if the window
of a cleared MIE is closed or ELEVEL is above 1, and accepted or left, by a free choice, if the window is open and
both ELEVEL and the level are at most 1; with a level above 1 it is left. The level is ELEVEL, or, at the boundary
after a MOV PSW that changed it, the level drawn there (R578, log 13); that the window asks for both is the model's
reading (log 12), and that the first of them is the ELEVEL PSW holds at this boundary, also where POP PSW or RTI has
changed it since the MOV PSW, is its choice (log 38). That the request is accepted at this very boundary where the
window of EI is closed is decision D32 of the spec (R508, log 36). The choices are drawn from free values (logs 6, 11,
12). -/
def Obligations.InterruptWindows : Prop :=
  ∀ (s : State) (v : MiSource), unblocked s →
    (s.dev.hasNmice = false ∨ Request.nmice ∉ s.req) → (s.useLevel.toNat = 3 ∨ Request.nmi ∉ s.req) →
    s.miChoice = some v →
    (flagMIE s.psw = true → s.useLevel.toNat ≤ 1 →
      (s.eiWindow = 0 → s.boundary = .accept (.mi v) s) ∧
      (0 < s.eiWindow → s.boundary = .accept (.mi v) (s.drawn 1) ∨ s.boundary = .run (s.drawn 1))) ∧
    (flagMIE s.psw = false → s.useLevel.toNat ≤ 1 → (elevelOf s.psw).toNat ≤ 1 → 0 < s.mieWindow →
      s.boundary = .accept (.mi v) (s.drawn 1) ∨ s.boundary = .run (s.drawn 1)) ∧
    (flagMIE s.psw = false → s.mieWindow = 0 ∨ 2 ≤ (elevelOf s.psw).toNat → s.boundary = .run s) ∧
    (2 ≤ s.useLevel.toNat → s.boundary = .run s) ∧
    (s.levelView = none → s.useLevel = elevelOf s.psw) ∧ ∀ k, s.levelView = some k → s.useLevel = k

/-- Where the reset input is asserted and the words at code addresses 0:0000H and 0:0002H can be fetched, step s is a
next state with PSW, CSR and DSR 0, SP the first word, PC the second with bit 0 dropped, the block latches set and the
prefix latch clear; memory and the pending requests are as before and the reset input is no longer asserted. Of every
other register nothing is said: they are free values (R560, decision D20, log 5). That the reset is taken at this
boundary, whatever the latches and requests, and that memory stays as it is across the reset input are decisions of
the spec (D19 of R560 and R561, log 36; log 5); that the requests stay and the input is released is the model's
reading of the environment (R504, logs 5, 10). -/
def Obligations.ResetInputSequence : Prop :=
  ∀ s : State, s.resetIn = true → fetchable s 0 0x0000#16 4 →
    ∃ t, step s = .next t ∧ wasReset s t ∧ t.resetIn = false

/-- For every instruction i and every state s at which it answers a next state t: if CSR has changed, i is B Cadr, BL
Cadr, RT, RTI, SWI, BRK or a POP register_list that names PC; if DSR has changed, i is the immediate or register form
of the DSR prefix word, or BRK at a level of 2 or 3. -/
def Obligations.SegmentRegisterWriters : Prop :=
  ∀ (i : Instr) (s t : State), exec i s = .next t →
    (t.csr ≠ s.csr →
      (∃ g cadr, i = .bCadr g cadr ∨ i = .blCadr g cadr) ∨ i ∈ [Instr.rt, .rti, .brk] ∨ (∃ snum, i = .swiSnum snum) ∨
        ∃ p ∈ popLists, p.1.getLsbD 1 = true ∧ i = p.2) ∧
    (t.dsr ≠ s.dsr →
      (∃ imm, i = .dsrPrefixImm8 imm) ∨ (∃ d, i = .dsrPrefixRd d) ∨ (i = .brk ∧ 2 ≤ s.useLevel.toNat))

/-- What a device answers is left to the device (R145): a free value, one draw for each byte (log 8). Where MEMMAP has
memory or a device at every byte read, each load of general or (where one is fitted) coprocessor registers, POP of
general registers and POP register_list answers the next state it has on a machine whose memory is that of s but for
the bytes of devices, of which nothing is said; memory itself is as before. Where every byte written is outside the
ROM window and writable memory or a writable device, each store of general or coprocessor registers, PUSH of general
registers and PUSH register_list (with the backup registers it names present) answers a next state in which writable
memory holds its bytes, every other byte of memory reads as before, and everything else is as where all of it is
memory; what the device does with its bytes is outside the model. TB Dbitadr on a device byte, writable or not, and
INC, DEC, SB and RB on a writable one outside the ROM window, answer a next state with the flags of some byte v (Z the
inverse of the bit, or Z, S, OV and HC of v + 1 or v - 1), memory and the store record as before, AR the offset (log
27), one value drawn, and nothing else changed; PC is NextPC. The order and the wrap of the bytes are as in the
statements on memory alone (R115, log 26), and so are bit 0 of LR, the layout of return frames and the dummy byte,
which POP does not read (logs 17 to 20). -/
def Obligations.DeviceAccesses : Prop :=
  (∀ (s : State) (n m : Reg) (disp dadr : Word) (d6 : BitVec 6), s.mem.wf →
    (∀ x ∈ loadForms s n m disp dadr d6, answered s s.dseg (alignOff x.size x.off) x.size →
      ∃ t, exec x.instr s = .next t ∧
        readsThrough s t (keysOf s.dev s.dseg (alignOff x.size x.off) x.size)
          (fun a b => loaded a b x.next x.off n x.size x.ea)) ∧
    (s.dev.coprocessor ≠ .absent → ∀ x ∈ coLoadForms s n, answered s s.dseg (alignOff x.size x.off) x.size →
      ∃ t, exec x.instr s = .next t ∧
        readsThrough s t (keysOf s.dev s.dseg (alignOff x.size x.off) x.size) (fun a b => coLoaded a b n x.size x.ea)) ∧
    (∀ x ∈ popForms n, answered s 0 s.sp x.2.1 →
      ∃ t, exec x.1 s = .next t ∧
        readsThrough s t (keysOf s.dev 0 s.sp x.2.1) (fun a b => popped a b n x.2.1 x.2.2)) ∧
    ∀ p ∈ popLists, (∀ x ∈ stackKeys s (popReads s p.1), kindAt s.dev x ≠ none) →
      ∃ t, exec p.2 s = .next t ∧
        readsThrough s t (stackKeys s (popReads s p.1)) (fun a b => poppedList a b p.1)) ∧
  (∀ (s : State) (n m : Reg) (disp dadr : Word) (d6 : BitVec 6), s.mem.wf →
    (∀ x ∈ storeForms s n m disp dadr d6, takes s s.dseg (alignOff x.size x.off) x.size →
      ∃ t, exec x.instr s = .next t ∧ taken s t x.next x.off (s.regs n x.size) x.ea) ∧
    (s.dev.coprocessor ≠ .absent → ∀ x ∈ coStoreForms s m, takes s s.dseg (alignOff x.size x.off) x.size →
      ∃ t, exec x.instr s = .next t ∧ coTaken s t m x.size x.ea) ∧
    (∀ x ∈ pushForms s n, takes s 0 (s.sp - BitVec.ofNat 16 x.2.length) x.2.length →
      ∃ t, exec x.1 s = .next t ∧ pushedTaken s t x.2) ∧
    ∀ p ∈ pushLists, (p.1.getLsbD 1 = true ∨ p.1.getLsbD 2 = true → s.levelPresent s.useLevel = true) →
      takes s 0 (s.sp - BitVec.ofNat 16 (pushFrame s p.1).length) (pushFrame s p.1).length →
      ∃ t, exec p.2 s = .next t ∧ pushedTaken s t (pushFrame s p.1)) ∧
  ∀ (s : State) (bit : BitVec 3) (dadr : Word),
    (kindAt s.dev (dataKey s.dev s.dseg s.ea) = some .device → inRomWindow s.dev s.dseg s.ea = false →
      (∃ t, ∃ v : Byte, exec .incEa s = .next t ∧
        onlySpecial s { t with psw := s.psw } s.nextPc { s.special with ar := s.ea, draws := s.draws + 1 } ∧
        pswIs t.psw (flagC s.psw) (decide (v = 0xFF#8)) (v + 1).msb (decide (v = 0x7F#8)) (flagMIE s.psw)
          (decide (v.toNat % 16 = 15)) (elevelOf s.psw)) ∧
      ∃ t, ∃ v : Byte, exec .decEa s = .next t ∧
        onlySpecial s { t with psw := s.psw } s.nextPc { s.special with ar := s.ea, draws := s.draws + 1 } ∧
        pswIs t.psw (flagC s.psw) (decide (v = 0x01#8)) (v - 1).msb (decide (v = 0x80#8)) (flagMIE s.psw)
          (decide (v.toNat % 16 = 0)) (elevelOf s.psw)) ∧
    (isDevice s.dev (dataKey s.dev s.dseg dadr) = true →
      ∃ t, ∃ v : Byte, exec (.tbDbitadr bit dadr) s = .next t ∧
        onlySpecial s { t with psw := s.psw } s.nextPc2 { s.special with ar := dadr, draws := s.draws + 1 } ∧
        zFlag s.psw t.psw (!v.getLsbD bit.toNat)) ∧
    (kindAt s.dev (dataKey s.dev s.dseg dadr) = some .device → inRomWindow s.dev s.dseg dadr = false →
      ∀ i ∈ [Instr.sbDbitadr bit dadr, .rbDbitadr bit dadr],
        ∃ t, ∃ v : Byte, exec i s = .next t ∧
          onlySpecial s { t with psw := s.psw } s.nextPc2 { s.special with ar := dadr, draws := s.draws + 1 } ∧
          zFlag s.psw t.psw (!v.getLsbD bit.toNat))

end
end

