-- ==== Sys2Proof/Laws/Memory.lean ====
section
/-! SUPPORT. The laws of memory: a write leaves every other byte alone, is read back, and keeps the canonical form. -/
namespace Sys2Proof.Machine

/-- A write leaves every other byte alone, whatever the memory. -/
theorem Memory.read_write_ne (m : Memory) (k k' : Nat) (v : Byte) (h : k' ≠ k) :
    (m.write k v).read k' = m.read k' := by
  induction m with
  | nil => unfold Memory.write; split <;> simp [Memory.read, h.symm]
  | cons c rest ih =>
    obtain ⟨a, b⟩ := c
    simp only [Memory.write]
    split_ifs <;> simp only [Memory.read, ih] <;> split_ifs <;> first | rfl | omega

theorem Memory.mem_of_mem_write {m : Memory} {k : Nat} {v : Byte} {c : Host.Cell} (h : c ∈ m.write k v) :
    c ∈ m ∨ (c = (k, v) ∧ v ≠ unlistedByte) := by
  induction m with
  | nil =>
    unfold Memory.write at h
    split at h
    · simp at h
    · simp at h; exact .inr ⟨h, by assumption⟩
  | cons d rest ih =>
    obtain ⟨a, b⟩ := d
    simp only [Memory.write] at h
    split_ifs at h with h1 h2 h3 h4
    · exact .inl h
    · rcases List.mem_cons.1 h with h | h
      · exact .inr ⟨h, h2⟩
      · exact .inl h
    · exact .inl (List.mem_cons_of_mem _ h)
    · rcases List.mem_cons.1 h with h | h
      · exact .inr ⟨h, h4⟩
      · exact .inl (List.mem_cons_of_mem _ h)
    · rcases List.mem_cons.1 h with h | h
      · exact .inl (h ▸ List.mem_cons_self)
      · rcases ih h with h | h
        · exact .inl (List.mem_cons_of_mem _ h)
        · exact .inr h

/-- Every write keeps the canonical form. -/
theorem Memory.wf_write (m : Memory) (k : Nat) (v : Byte) (h : m.wf) : (m.write k v).wf := by
  constructor
  · have hp := h.1
    clear h
    induction m with
    | nil => unfold Memory.write; split <;> simp
    | cons d rest ih =>
      obtain ⟨a, b⟩ := d
      rw [List.pairwise_cons] at hp
      simp only [Memory.write]
      split_ifs with h1 h2 h3 h4
      · exact List.pairwise_cons.2 hp
      · refine List.pairwise_cons.2 ⟨?_, List.pairwise_cons.2 hp⟩
        intro c hc
        rcases List.mem_cons.1 hc with rfl | hc
        · exact h1
        · exact Nat.lt_trans h1 (hp.1 c hc)
      · exact hp.2
      · subst h3
        exact List.pairwise_cons.2 ⟨fun c hc => hp.1 c hc, hp.2⟩
      · refine List.pairwise_cons.2 ⟨?_, ih hp.2⟩
        intro c hc
        rcases Memory.mem_of_mem_write hc with hc | ⟨rfl, -⟩
        · exact hp.1 c hc
        · simp only; omega
  · intro c hc
    rcases Memory.mem_of_mem_write hc with hc | ⟨rfl, hv⟩
    · exact h.2 c hc
    · exact hv

theorem Memory.read_of_lt {m : Memory} {k : Nat} (h : ∀ c ∈ m, k < c.1) : m.read k = unlistedByte := by
  induction m with
  | nil => rfl
  | cons d rest ih =>
    obtain ⟨a, b⟩ := d
    have ha : k < a := h (a, b) List.mem_cons_self
    rw [Memory.read, if_neg (by omega)]
    exact ih fun c hc => h c (List.mem_cons_of_mem _ hc)

/-- A byte that was written is read back, in a memory of the canonical form. -/
theorem Memory.read_write_self (m : Memory) (k : Nat) (v : Byte) (h : m.wf) : (m.write k v).read k = v := by
  have hp := h.1
  clear h
  induction m with
  | nil => unfold Memory.write; split <;> simp_all [Memory.read]
  | cons d rest ih =>
    obtain ⟨a, b⟩ := d
    rw [List.pairwise_cons] at hp
    simp only [Memory.write]
    split_ifs with h1 h2 h3 h4
    · rw [h2, Memory.read, if_neg (by omega)]
      exact Memory.read_of_lt fun c hc => Nat.lt_trans h1 (hp.1 c hc)
    · simp [Memory.read]
    · subst h3
      rw [h4]
      exact Memory.read_of_lt fun c hc => hp.1 c hc
    · simp [Memory.read]
    · rw [Memory.read, if_neg (by omega)]
      exact ih hp.2

/-- One write read back at any key. -/
theorem Memory.read_write (m : Memory) (k k' : Nat) (v : Byte) (h : m.wf) :
    (m.write k v).read k' = if k' = k then v else m.read k' := by
  split
  · subst_vars; exact m.read_write_self _ v h
  · exact m.read_write_ne _ _ v (by assumption)

theorem KeySet.mem_add (ks : KeySet) (k x : Nat) : x ∈ ks.add k ↔ x = k ∨ x ∈ ks := by
  induction ks with
  | nil => simp [KeySet.add]
  | cons a rest ih =>
    simp only [KeySet.add]
    split_ifs <;> simp_all
    tauto

theorem KeySet.wf_add (ks : KeySet) (k : Nat) (h : ks.wf) : (ks.add k).wf := by
  induction ks with
  | nil => simp [KeySet.add]
  | cons a rest ih =>
    have h' := List.pairwise_cons.1 h
    simp only [KeySet.add]
    split_ifs with h1 h2
    · refine List.pairwise_cons.2 ⟨?_, h⟩
      intro c hc
      rcases List.mem_cons.1 hc with rfl | hc
      · exact h1
      · exact Nat.lt_trans h1 (h'.1 c hc)
    · exact h
    · refine List.pairwise_cons.2 ⟨?_, ih h'.2⟩
      intro c hc
      rcases (KeySet.mem_add rest k c).1 hc with rfl | hc
      · omega
      · exact h'.1 c hc

theorem KeySet.wf_remove (ks : KeySet) (gone : List Nat) (h : ks.wf) : (ks.remove gone).wf :=
  List.Pairwise.sublist List.filter_sublist h

end Sys2Proof.Machine
end

