-- ==== Sys2Proof/Laws/Bits.lean ====
section
/-! SUPPORT. Taking apart words that were put together from fields, at the widths of this machine. -/
namespace Sys2Proof

theorem getLsbD_append_nibbles (x y : BitVec 4) (i : Nat) :
    @BitVec.getLsbD 8 (x ++ y) i = if i < 4 then y.getLsbD i else x.getLsbD (i - 4) := BitVec.getLsbD_append

theorem getLsbD_append_bytes (x y : BitVec 8) (i : Nat) :
    @BitVec.getLsbD 16 (x ++ y) i = if i < 8 then y.getLsbD i else x.getLsbD (i - 8) := BitVec.getLsbD_append

@[simp] theorem lowByte_append (x y : BitVec 8) : (x ++ y : BitVec 16).extractLsb' 0 8 = y := by
  apply BitVec.eq_of_getLsbD_eq
  intro i hi
  simp [getLsbD_append_bytes, hi]

@[simp] theorem highByte_append (x y : BitVec 8) : (x ++ y : BitVec 16).extractLsb' 8 8 = x := by
  apply BitVec.eq_of_getLsbD_eq
  intro i hi
  simp [getLsbD_append_bytes, hi]

@[simp] theorem append_bytes_of_word (v : BitVec 16) : (v.extractLsb' 8 8 ++ v.extractLsb' 0 8 : BitVec 16) = v := by
  apply BitVec.eq_of_getLsbD_eq
  intro i hi
  rw [getLsbD_append_bytes]
  by_cases h : i < 8
  · simp [h]
  · have h8 : i - 8 < 8 := by omega
    simp [h, h8, show 8 + (i - 8) = i by omega]

@[simp] theorem lowNibble_append (x y : BitVec 4) : (x ++ y : BitVec 8).extractLsb' 0 4 = y := by
  apply BitVec.eq_of_getLsbD_eq
  intro i hi
  simp [getLsbD_append_nibbles, hi]

@[simp] theorem highNibble_append (x y : BitVec 4) : (x ++ y : BitVec 8).extractLsb' 4 4 = x := by
  apply BitVec.eq_of_getLsbD_eq
  intro i hi
  simp [getLsbD_append_nibbles, hi]

/-- The four parts of a first word (30_encoding.md R160). -/
theorem firstWord_eq (a n : BitVec 4) (lo : BitVec 8) : firstWord a n lo = ((a ++ n : BitVec 8) ++ lo : BitVec 16) := rfl

@[simp] theorem firstWord_low (a n : BitVec 4) (lo : BitVec 8) : (firstWord a n lo).extractLsb' 0 8 = lo := by
  rw [firstWord_eq, lowByte_append]

theorem extract_of_extract (v : BitVec 16) (i j k : Nat) (h : j + k ≤ 8) :
    (v.extractLsb' i 8).extractLsb' j k = v.extractLsb' (i + j) k := by
  apply BitVec.eq_of_getLsbD_eq
  intro x hx
  simp [hx, show j + x < 8 by omega, Nat.add_assoc]

@[simp] theorem firstWord_major (a n : BitVec 4) (lo : BitVec 8) : (firstWord a n lo).extractLsb' 12 4 = a := by
  rw [← extract_of_extract _ 8 4 4 (by omega), firstWord_eq, highByte_append, highNibble_append]

@[simp] theorem firstWord_second (a n : BitVec 4) (lo : BitVec 8) : (firstWord a n lo).extractLsb' 8 4 = n := by
  rw [← extract_of_extract _ 8 0 4 (by omega), firstWord_eq, highByte_append, lowNibble_append]

@[simp] theorem firstWord_third (a n : BitVec 4) (lo : BitVec 8) :
    (firstWord a n lo).extractLsb' 4 4 = lo.extractLsb' 4 4 := by
  rw [← extract_of_extract _ 0 4 4 (by omega), firstWord_low]

@[simp] theorem firstWord_last (a n : BitVec 4) (lo : BitVec 8) :
    (firstWord a n lo).extractLsb' 0 4 = lo.extractLsb' 0 4 := by
  rw [← extract_of_extract _ 0 0 4 (by omega), firstWord_low]

/-- A word from its two bytes, taken apart (20_memory.md R107). -/
@[simp] theorem wordOfBytes_bytesOfWord (w : Word) : wordOfBytes (w.extractLsb' 0 8) (w.extractLsb' 8 8) = w :=
  append_bytes_of_word w

end Sys2Proof
end

