-- ==== Sys2Proof/Laws/State.lean ====
section
/-! SUPPORT. What each update of the state does to each field and to each accessor: one lemma per field per update. -/
namespace Sys2Proof.Machine

@[simp] theorem State.setReg_cr (s : State) (n : Reg) (v : Byte) : (s.setReg n v).cr = s.cr := rfl
@[simp] theorem State.setReg_psw (s : State) (n : Reg) (v : Byte) : (s.setReg n v).psw = s.psw := rfl
@[simp] theorem State.setReg_pc (s : State) (n : Reg) (v : Byte) : (s.setReg n v).pc = s.pc := rfl
@[simp] theorem State.setReg_csr (s : State) (n : Reg) (v : Byte) : (s.setReg n v).csr = s.csr := rfl
@[simp] theorem State.setReg_lr (s : State) (n : Reg) (v : Byte) : (s.setReg n v).lr = s.lr := rfl
@[simp] theorem State.setReg_elr1 (s : State) (n : Reg) (v : Byte) : (s.setReg n v).elr1 = s.elr1 := rfl
@[simp] theorem State.setReg_elr2 (s : State) (n : Reg) (v : Byte) : (s.setReg n v).elr2 = s.elr2 := rfl
@[simp] theorem State.setReg_elr3 (s : State) (n : Reg) (v : Byte) : (s.setReg n v).elr3 = s.elr3 := rfl
@[simp] theorem State.setReg_lcsr (s : State) (n : Reg) (v : Byte) : (s.setReg n v).lcsr = s.lcsr := rfl
@[simp] theorem State.setReg_ecsr1 (s : State) (n : Reg) (v : Byte) : (s.setReg n v).ecsr1 = s.ecsr1 := rfl
@[simp] theorem State.setReg_ecsr2 (s : State) (n : Reg) (v : Byte) : (s.setReg n v).ecsr2 = s.ecsr2 := rfl
@[simp] theorem State.setReg_ecsr3 (s : State) (n : Reg) (v : Byte) : (s.setReg n v).ecsr3 = s.ecsr3 := rfl
@[simp] theorem State.setReg_epsw1 (s : State) (n : Reg) (v : Byte) : (s.setReg n v).epsw1 = s.epsw1 := rfl
@[simp] theorem State.setReg_epsw2 (s : State) (n : Reg) (v : Byte) : (s.setReg n v).epsw2 = s.epsw2 := rfl
@[simp] theorem State.setReg_epsw3 (s : State) (n : Reg) (v : Byte) : (s.setReg n v).epsw3 = s.epsw3 := rfl
@[simp] theorem State.setReg_sp (s : State) (n : Reg) (v : Byte) : (s.setReg n v).sp = s.sp := rfl
@[simp] theorem State.setReg_ea (s : State) (n : Reg) (v : Byte) : (s.setReg n v).ea = s.ea := rfl
@[simp] theorem State.setReg_ar (s : State) (n : Reg) (v : Byte) : (s.setReg n v).ar = s.ar := rfl
@[simp] theorem State.setReg_dsr (s : State) (n : Reg) (v : Byte) : (s.setReg n v).dsr = s.dsr := rfl
@[simp] theorem State.setReg_pfx (s : State) (n : Reg) (v : Byte) : (s.setReg n v).pfx = s.pfx := rfl
@[simp] theorem State.setReg_iblock (s : State) (n : Reg) (v : Byte) : (s.setReg n v).iblock = s.iblock := rfl
@[simp] theorem State.setReg_entryBlock (s : State) (n : Reg) (v : Byte) : (s.setReg n v).entryBlock = s.entryBlock := rfl
@[simp] theorem State.setReg_eiWindow (s : State) (n : Reg) (v : Byte) : (s.setReg n v).eiWindow = s.eiWindow := rfl
@[simp] theorem State.setReg_mieWindow (s : State) (n : Reg) (v : Byte) : (s.setReg n v).mieWindow = s.mieWindow := rfl
@[simp] theorem State.setReg_levelView (s : State) (n : Reg) (v : Byte) : (s.setReg n v).levelView = s.levelView := rfl
@[simp] theorem State.setReg_req (s : State) (n : Reg) (v : Byte) : (s.setReg n v).req = s.req := rfl
@[simp] theorem State.setReg_resetIn (s : State) (n : Reg) (v : Byte) : (s.setReg n v).resetIn = s.resetIn := rfl
@[simp] theorem State.setReg_mem (s : State) (n : Reg) (v : Byte) : (s.setReg n v).mem = s.mem := rfl
@[simp] theorem State.setReg_codeStores (s : State) (n : Reg) (v : Byte) : (s.setReg n v).codeStores = s.codeStores := rfl
@[simp] theorem State.setReg_draws (s : State) (n : Reg) (v : Byte) : (s.setReg n v).draws = s.draws := rfl
@[simp] theorem State.setReg_dev (s : State) (n : Reg) (v : Byte) : (s.setReg n v).dev = s.dev := rfl
@[simp] theorem State.setReg_creg (s : State) (n : Reg) (v : Byte) (x : Reg) : (s.setReg n v).creg x = s.creg x := rfl
@[simp] theorem State.setReg_isLarge (s : State) (n : Reg) (v : Byte) : (s.setReg n v).isLarge = s.isLarge := rfl
@[simp] theorem State.setReg_elevel (s : State) (n : Reg) (v : Byte) : (s.setReg n v).elevel = s.elevel := rfl

@[simp] theorem State.setEr_cr (s : State) (n : Reg) (v : Word) : (s.setEr n v).cr = s.cr := rfl
@[simp] theorem State.setEr_psw (s : State) (n : Reg) (v : Word) : (s.setEr n v).psw = s.psw := rfl
@[simp] theorem State.setEr_pc (s : State) (n : Reg) (v : Word) : (s.setEr n v).pc = s.pc := rfl
@[simp] theorem State.setEr_csr (s : State) (n : Reg) (v : Word) : (s.setEr n v).csr = s.csr := rfl
@[simp] theorem State.setEr_lr (s : State) (n : Reg) (v : Word) : (s.setEr n v).lr = s.lr := rfl
@[simp] theorem State.setEr_elr1 (s : State) (n : Reg) (v : Word) : (s.setEr n v).elr1 = s.elr1 := rfl
@[simp] theorem State.setEr_elr2 (s : State) (n : Reg) (v : Word) : (s.setEr n v).elr2 = s.elr2 := rfl
@[simp] theorem State.setEr_elr3 (s : State) (n : Reg) (v : Word) : (s.setEr n v).elr3 = s.elr3 := rfl
@[simp] theorem State.setEr_lcsr (s : State) (n : Reg) (v : Word) : (s.setEr n v).lcsr = s.lcsr := rfl
@[simp] theorem State.setEr_ecsr1 (s : State) (n : Reg) (v : Word) : (s.setEr n v).ecsr1 = s.ecsr1 := rfl
@[simp] theorem State.setEr_ecsr2 (s : State) (n : Reg) (v : Word) : (s.setEr n v).ecsr2 = s.ecsr2 := rfl
@[simp] theorem State.setEr_ecsr3 (s : State) (n : Reg) (v : Word) : (s.setEr n v).ecsr3 = s.ecsr3 := rfl
@[simp] theorem State.setEr_epsw1 (s : State) (n : Reg) (v : Word) : (s.setEr n v).epsw1 = s.epsw1 := rfl
@[simp] theorem State.setEr_epsw2 (s : State) (n : Reg) (v : Word) : (s.setEr n v).epsw2 = s.epsw2 := rfl
@[simp] theorem State.setEr_epsw3 (s : State) (n : Reg) (v : Word) : (s.setEr n v).epsw3 = s.epsw3 := rfl
@[simp] theorem State.setEr_sp (s : State) (n : Reg) (v : Word) : (s.setEr n v).sp = s.sp := rfl
@[simp] theorem State.setEr_ea (s : State) (n : Reg) (v : Word) : (s.setEr n v).ea = s.ea := rfl
@[simp] theorem State.setEr_ar (s : State) (n : Reg) (v : Word) : (s.setEr n v).ar = s.ar := rfl
@[simp] theorem State.setEr_dsr (s : State) (n : Reg) (v : Word) : (s.setEr n v).dsr = s.dsr := rfl
@[simp] theorem State.setEr_pfx (s : State) (n : Reg) (v : Word) : (s.setEr n v).pfx = s.pfx := rfl
@[simp] theorem State.setEr_iblock (s : State) (n : Reg) (v : Word) : (s.setEr n v).iblock = s.iblock := rfl
@[simp] theorem State.setEr_entryBlock (s : State) (n : Reg) (v : Word) : (s.setEr n v).entryBlock = s.entryBlock := rfl
@[simp] theorem State.setEr_eiWindow (s : State) (n : Reg) (v : Word) : (s.setEr n v).eiWindow = s.eiWindow := rfl
@[simp] theorem State.setEr_mieWindow (s : State) (n : Reg) (v : Word) : (s.setEr n v).mieWindow = s.mieWindow := rfl
@[simp] theorem State.setEr_levelView (s : State) (n : Reg) (v : Word) : (s.setEr n v).levelView = s.levelView := rfl
@[simp] theorem State.setEr_req (s : State) (n : Reg) (v : Word) : (s.setEr n v).req = s.req := rfl
@[simp] theorem State.setEr_resetIn (s : State) (n : Reg) (v : Word) : (s.setEr n v).resetIn = s.resetIn := rfl
@[simp] theorem State.setEr_mem (s : State) (n : Reg) (v : Word) : (s.setEr n v).mem = s.mem := rfl
@[simp] theorem State.setEr_codeStores (s : State) (n : Reg) (v : Word) : (s.setEr n v).codeStores = s.codeStores := rfl
@[simp] theorem State.setEr_draws (s : State) (n : Reg) (v : Word) : (s.setEr n v).draws = s.draws := rfl
@[simp] theorem State.setEr_dev (s : State) (n : Reg) (v : Word) : (s.setEr n v).dev = s.dev := rfl
@[simp] theorem State.setEr_creg (s : State) (n : Reg) (v : Word) (x : Reg) : (s.setEr n v).creg x = s.creg x := rfl
@[simp] theorem State.setEr_isLarge (s : State) (n : Reg) (v : Word) : (s.setEr n v).isLarge = s.isLarge := rfl
@[simp] theorem State.setEr_elevel (s : State) (n : Reg) (v : Word) : (s.setEr n v).elevel = s.elevel := rfl

@[simp] theorem State.setCreg_r (s : State) (n : Reg) (v : Byte) : (s.setCreg n v).r = s.r := rfl
@[simp] theorem State.setCreg_psw (s : State) (n : Reg) (v : Byte) : (s.setCreg n v).psw = s.psw := rfl
@[simp] theorem State.setCreg_pc (s : State) (n : Reg) (v : Byte) : (s.setCreg n v).pc = s.pc := rfl
@[simp] theorem State.setCreg_csr (s : State) (n : Reg) (v : Byte) : (s.setCreg n v).csr = s.csr := rfl
@[simp] theorem State.setCreg_lr (s : State) (n : Reg) (v : Byte) : (s.setCreg n v).lr = s.lr := rfl
@[simp] theorem State.setCreg_elr1 (s : State) (n : Reg) (v : Byte) : (s.setCreg n v).elr1 = s.elr1 := rfl
@[simp] theorem State.setCreg_elr2 (s : State) (n : Reg) (v : Byte) : (s.setCreg n v).elr2 = s.elr2 := rfl
@[simp] theorem State.setCreg_elr3 (s : State) (n : Reg) (v : Byte) : (s.setCreg n v).elr3 = s.elr3 := rfl
@[simp] theorem State.setCreg_lcsr (s : State) (n : Reg) (v : Byte) : (s.setCreg n v).lcsr = s.lcsr := rfl
@[simp] theorem State.setCreg_ecsr1 (s : State) (n : Reg) (v : Byte) : (s.setCreg n v).ecsr1 = s.ecsr1 := rfl
@[simp] theorem State.setCreg_ecsr2 (s : State) (n : Reg) (v : Byte) : (s.setCreg n v).ecsr2 = s.ecsr2 := rfl
@[simp] theorem State.setCreg_ecsr3 (s : State) (n : Reg) (v : Byte) : (s.setCreg n v).ecsr3 = s.ecsr3 := rfl
@[simp] theorem State.setCreg_epsw1 (s : State) (n : Reg) (v : Byte) : (s.setCreg n v).epsw1 = s.epsw1 := rfl
@[simp] theorem State.setCreg_epsw2 (s : State) (n : Reg) (v : Byte) : (s.setCreg n v).epsw2 = s.epsw2 := rfl
@[simp] theorem State.setCreg_epsw3 (s : State) (n : Reg) (v : Byte) : (s.setCreg n v).epsw3 = s.epsw3 := rfl
@[simp] theorem State.setCreg_sp (s : State) (n : Reg) (v : Byte) : (s.setCreg n v).sp = s.sp := rfl
@[simp] theorem State.setCreg_ea (s : State) (n : Reg) (v : Byte) : (s.setCreg n v).ea = s.ea := rfl
@[simp] theorem State.setCreg_ar (s : State) (n : Reg) (v : Byte) : (s.setCreg n v).ar = s.ar := rfl
@[simp] theorem State.setCreg_dsr (s : State) (n : Reg) (v : Byte) : (s.setCreg n v).dsr = s.dsr := rfl
@[simp] theorem State.setCreg_pfx (s : State) (n : Reg) (v : Byte) : (s.setCreg n v).pfx = s.pfx := rfl
@[simp] theorem State.setCreg_iblock (s : State) (n : Reg) (v : Byte) : (s.setCreg n v).iblock = s.iblock := rfl
@[simp] theorem State.setCreg_entryBlock (s : State) (n : Reg) (v : Byte) : (s.setCreg n v).entryBlock = s.entryBlock := rfl
@[simp] theorem State.setCreg_eiWindow (s : State) (n : Reg) (v : Byte) : (s.setCreg n v).eiWindow = s.eiWindow := rfl
@[simp] theorem State.setCreg_mieWindow (s : State) (n : Reg) (v : Byte) : (s.setCreg n v).mieWindow = s.mieWindow := rfl
@[simp] theorem State.setCreg_levelView (s : State) (n : Reg) (v : Byte) : (s.setCreg n v).levelView = s.levelView := rfl
@[simp] theorem State.setCreg_req (s : State) (n : Reg) (v : Byte) : (s.setCreg n v).req = s.req := rfl
@[simp] theorem State.setCreg_resetIn (s : State) (n : Reg) (v : Byte) : (s.setCreg n v).resetIn = s.resetIn := rfl
@[simp] theorem State.setCreg_mem (s : State) (n : Reg) (v : Byte) : (s.setCreg n v).mem = s.mem := rfl
@[simp] theorem State.setCreg_codeStores (s : State) (n : Reg) (v : Byte) : (s.setCreg n v).codeStores = s.codeStores := rfl
@[simp] theorem State.setCreg_draws (s : State) (n : Reg) (v : Byte) : (s.setCreg n v).draws = s.draws := rfl
@[simp] theorem State.setCreg_dev (s : State) (n : Reg) (v : Byte) : (s.setCreg n v).dev = s.dev := rfl
@[simp] theorem State.setCreg_reg (s : State) (n : Reg) (v : Byte) (x : Reg) : (s.setCreg n v).reg x = s.reg x := rfl
@[simp] theorem State.setCreg_er (s : State) (n : Reg) (v : Byte) (x : Reg) : (s.setCreg n v).er x = s.er x := rfl
@[simp] theorem State.setCreg_isLarge (s : State) (n : Reg) (v : Byte) : (s.setCreg n v).isLarge = s.isLarge := rfl
@[simp] theorem State.setCreg_elevel (s : State) (n : Reg) (v : Byte) : (s.setCreg n v).elevel = s.elevel := rfl

@[simp] theorem State.setPsw_r (s : State) (p : Byte) : (s.setPsw p).r = s.r := rfl
@[simp] theorem State.setPsw_cr (s : State) (p : Byte) : (s.setPsw p).cr = s.cr := rfl
@[simp] theorem State.setPsw_psw (s : State) (p : Byte) : (s.setPsw p).psw = p := rfl
@[simp] theorem State.setPsw_pc (s : State) (p : Byte) : (s.setPsw p).pc = s.pc := rfl
@[simp] theorem State.setPsw_csr (s : State) (p : Byte) : (s.setPsw p).csr = s.csr := rfl
@[simp] theorem State.setPsw_lr (s : State) (p : Byte) : (s.setPsw p).lr = s.lr := rfl
@[simp] theorem State.setPsw_elr1 (s : State) (p : Byte) : (s.setPsw p).elr1 = s.elr1 := rfl
@[simp] theorem State.setPsw_elr2 (s : State) (p : Byte) : (s.setPsw p).elr2 = s.elr2 := rfl
@[simp] theorem State.setPsw_elr3 (s : State) (p : Byte) : (s.setPsw p).elr3 = s.elr3 := rfl
@[simp] theorem State.setPsw_lcsr (s : State) (p : Byte) : (s.setPsw p).lcsr = s.lcsr := rfl
@[simp] theorem State.setPsw_ecsr1 (s : State) (p : Byte) : (s.setPsw p).ecsr1 = s.ecsr1 := rfl
@[simp] theorem State.setPsw_ecsr2 (s : State) (p : Byte) : (s.setPsw p).ecsr2 = s.ecsr2 := rfl
@[simp] theorem State.setPsw_ecsr3 (s : State) (p : Byte) : (s.setPsw p).ecsr3 = s.ecsr3 := rfl
@[simp] theorem State.setPsw_epsw1 (s : State) (p : Byte) : (s.setPsw p).epsw1 = s.epsw1 := rfl
@[simp] theorem State.setPsw_epsw2 (s : State) (p : Byte) : (s.setPsw p).epsw2 = s.epsw2 := rfl
@[simp] theorem State.setPsw_epsw3 (s : State) (p : Byte) : (s.setPsw p).epsw3 = s.epsw3 := rfl
@[simp] theorem State.setPsw_sp (s : State) (p : Byte) : (s.setPsw p).sp = s.sp := rfl
@[simp] theorem State.setPsw_ea (s : State) (p : Byte) : (s.setPsw p).ea = s.ea := rfl
@[simp] theorem State.setPsw_ar (s : State) (p : Byte) : (s.setPsw p).ar = s.ar := rfl
@[simp] theorem State.setPsw_dsr (s : State) (p : Byte) : (s.setPsw p).dsr = s.dsr := rfl
@[simp] theorem State.setPsw_pfx (s : State) (p : Byte) : (s.setPsw p).pfx = s.pfx := rfl
@[simp] theorem State.setPsw_iblock (s : State) (p : Byte) : (s.setPsw p).iblock = s.iblock := rfl
@[simp] theorem State.setPsw_entryBlock (s : State) (p : Byte) : (s.setPsw p).entryBlock = s.entryBlock := rfl
@[simp] theorem State.setPsw_eiWindow (s : State) (p : Byte) : (s.setPsw p).eiWindow = s.eiWindow := rfl
@[simp] theorem State.setPsw_mieWindow (s : State) (p : Byte) : (s.setPsw p).mieWindow = s.mieWindow := rfl
@[simp] theorem State.setPsw_levelView (s : State) (p : Byte) : (s.setPsw p).levelView = s.levelView := rfl
@[simp] theorem State.setPsw_req (s : State) (p : Byte) : (s.setPsw p).req = s.req := rfl
@[simp] theorem State.setPsw_resetIn (s : State) (p : Byte) : (s.setPsw p).resetIn = s.resetIn := rfl
@[simp] theorem State.setPsw_mem (s : State) (p : Byte) : (s.setPsw p).mem = s.mem := rfl
@[simp] theorem State.setPsw_codeStores (s : State) (p : Byte) : (s.setPsw p).codeStores = s.codeStores := rfl
@[simp] theorem State.setPsw_draws (s : State) (p : Byte) : (s.setPsw p).draws = s.draws := rfl
@[simp] theorem State.setPsw_dev (s : State) (p : Byte) : (s.setPsw p).dev = s.dev := rfl
@[simp] theorem State.setPsw_reg (s : State) (p : Byte) (x : Reg) : (s.setPsw p).reg x = s.reg x := rfl
@[simp] theorem State.setPsw_creg (s : State) (p : Byte) (x : Reg) : (s.setPsw p).creg x = s.creg x := rfl
@[simp] theorem State.setPsw_er (s : State) (p : Byte) (x : Reg) : (s.setPsw p).er x = s.er x := rfl
@[simp] theorem State.setPsw_isLarge (s : State) (p : Byte) : (s.setPsw p).isLarge = s.isLarge := rfl

@[simp] theorem State.setSp_r (s : State) (v : Word) : (s.setSp v).r = s.r := rfl
@[simp] theorem State.setSp_cr (s : State) (v : Word) : (s.setSp v).cr = s.cr := rfl
@[simp] theorem State.setSp_psw (s : State) (v : Word) : (s.setSp v).psw = s.psw := rfl
@[simp] theorem State.setSp_pc (s : State) (v : Word) : (s.setSp v).pc = s.pc := rfl
@[simp] theorem State.setSp_csr (s : State) (v : Word) : (s.setSp v).csr = s.csr := rfl
@[simp] theorem State.setSp_lr (s : State) (v : Word) : (s.setSp v).lr = s.lr := rfl
@[simp] theorem State.setSp_elr1 (s : State) (v : Word) : (s.setSp v).elr1 = s.elr1 := rfl
@[simp] theorem State.setSp_elr2 (s : State) (v : Word) : (s.setSp v).elr2 = s.elr2 := rfl
@[simp] theorem State.setSp_elr3 (s : State) (v : Word) : (s.setSp v).elr3 = s.elr3 := rfl
@[simp] theorem State.setSp_lcsr (s : State) (v : Word) : (s.setSp v).lcsr = s.lcsr := rfl
@[simp] theorem State.setSp_ecsr1 (s : State) (v : Word) : (s.setSp v).ecsr1 = s.ecsr1 := rfl
@[simp] theorem State.setSp_ecsr2 (s : State) (v : Word) : (s.setSp v).ecsr2 = s.ecsr2 := rfl
@[simp] theorem State.setSp_ecsr3 (s : State) (v : Word) : (s.setSp v).ecsr3 = s.ecsr3 := rfl
@[simp] theorem State.setSp_epsw1 (s : State) (v : Word) : (s.setSp v).epsw1 = s.epsw1 := rfl
@[simp] theorem State.setSp_epsw2 (s : State) (v : Word) : (s.setSp v).epsw2 = s.epsw2 := rfl
@[simp] theorem State.setSp_epsw3 (s : State) (v : Word) : (s.setSp v).epsw3 = s.epsw3 := rfl
@[simp] theorem State.setSp_sp (s : State) (v : Word) : (s.setSp v).sp = v := rfl
@[simp] theorem State.setSp_ea (s : State) (v : Word) : (s.setSp v).ea = s.ea := rfl
@[simp] theorem State.setSp_ar (s : State) (v : Word) : (s.setSp v).ar = s.ar := rfl
@[simp] theorem State.setSp_dsr (s : State) (v : Word) : (s.setSp v).dsr = s.dsr := rfl
@[simp] theorem State.setSp_pfx (s : State) (v : Word) : (s.setSp v).pfx = s.pfx := rfl
@[simp] theorem State.setSp_iblock (s : State) (v : Word) : (s.setSp v).iblock = s.iblock := rfl
@[simp] theorem State.setSp_entryBlock (s : State) (v : Word) : (s.setSp v).entryBlock = s.entryBlock := rfl
@[simp] theorem State.setSp_eiWindow (s : State) (v : Word) : (s.setSp v).eiWindow = s.eiWindow := rfl
@[simp] theorem State.setSp_mieWindow (s : State) (v : Word) : (s.setSp v).mieWindow = s.mieWindow := rfl
@[simp] theorem State.setSp_levelView (s : State) (v : Word) : (s.setSp v).levelView = s.levelView := rfl
@[simp] theorem State.setSp_req (s : State) (v : Word) : (s.setSp v).req = s.req := rfl
@[simp] theorem State.setSp_resetIn (s : State) (v : Word) : (s.setSp v).resetIn = s.resetIn := rfl
@[simp] theorem State.setSp_mem (s : State) (v : Word) : (s.setSp v).mem = s.mem := rfl
@[simp] theorem State.setSp_codeStores (s : State) (v : Word) : (s.setSp v).codeStores = s.codeStores := rfl
@[simp] theorem State.setSp_draws (s : State) (v : Word) : (s.setSp v).draws = s.draws := rfl
@[simp] theorem State.setSp_dev (s : State) (v : Word) : (s.setSp v).dev = s.dev := rfl
@[simp] theorem State.setSp_reg (s : State) (v : Word) (x : Reg) : (s.setSp v).reg x = s.reg x := rfl
@[simp] theorem State.setSp_creg (s : State) (v : Word) (x : Reg) : (s.setSp v).creg x = s.creg x := rfl
@[simp] theorem State.setSp_er (s : State) (v : Word) (x : Reg) : (s.setSp v).er x = s.er x := rfl
@[simp] theorem State.setSp_isLarge (s : State) (v : Word) : (s.setSp v).isLarge = s.isLarge := rfl
@[simp] theorem State.setSp_elevel (s : State) (v : Word) : (s.setSp v).elevel = s.elevel := rfl

@[simp] theorem State.setEa_r (s : State) (v : Word) : (s.setEa v).r = s.r := rfl
@[simp] theorem State.setEa_cr (s : State) (v : Word) : (s.setEa v).cr = s.cr := rfl
@[simp] theorem State.setEa_psw (s : State) (v : Word) : (s.setEa v).psw = s.psw := rfl
@[simp] theorem State.setEa_pc (s : State) (v : Word) : (s.setEa v).pc = s.pc := rfl
@[simp] theorem State.setEa_csr (s : State) (v : Word) : (s.setEa v).csr = s.csr := rfl
@[simp] theorem State.setEa_lr (s : State) (v : Word) : (s.setEa v).lr = s.lr := rfl
@[simp] theorem State.setEa_elr1 (s : State) (v : Word) : (s.setEa v).elr1 = s.elr1 := rfl
@[simp] theorem State.setEa_elr2 (s : State) (v : Word) : (s.setEa v).elr2 = s.elr2 := rfl
@[simp] theorem State.setEa_elr3 (s : State) (v : Word) : (s.setEa v).elr3 = s.elr3 := rfl
@[simp] theorem State.setEa_lcsr (s : State) (v : Word) : (s.setEa v).lcsr = s.lcsr := rfl
@[simp] theorem State.setEa_ecsr1 (s : State) (v : Word) : (s.setEa v).ecsr1 = s.ecsr1 := rfl
@[simp] theorem State.setEa_ecsr2 (s : State) (v : Word) : (s.setEa v).ecsr2 = s.ecsr2 := rfl
@[simp] theorem State.setEa_ecsr3 (s : State) (v : Word) : (s.setEa v).ecsr3 = s.ecsr3 := rfl
@[simp] theorem State.setEa_epsw1 (s : State) (v : Word) : (s.setEa v).epsw1 = s.epsw1 := rfl
@[simp] theorem State.setEa_epsw2 (s : State) (v : Word) : (s.setEa v).epsw2 = s.epsw2 := rfl
@[simp] theorem State.setEa_epsw3 (s : State) (v : Word) : (s.setEa v).epsw3 = s.epsw3 := rfl
@[simp] theorem State.setEa_sp (s : State) (v : Word) : (s.setEa v).sp = s.sp := rfl
@[simp] theorem State.setEa_ea (s : State) (v : Word) : (s.setEa v).ea = v := rfl
@[simp] theorem State.setEa_ar (s : State) (v : Word) : (s.setEa v).ar = s.ar := rfl
@[simp] theorem State.setEa_dsr (s : State) (v : Word) : (s.setEa v).dsr = s.dsr := rfl
@[simp] theorem State.setEa_pfx (s : State) (v : Word) : (s.setEa v).pfx = s.pfx := rfl
@[simp] theorem State.setEa_iblock (s : State) (v : Word) : (s.setEa v).iblock = s.iblock := rfl
@[simp] theorem State.setEa_entryBlock (s : State) (v : Word) : (s.setEa v).entryBlock = s.entryBlock := rfl
@[simp] theorem State.setEa_eiWindow (s : State) (v : Word) : (s.setEa v).eiWindow = s.eiWindow := rfl
@[simp] theorem State.setEa_mieWindow (s : State) (v : Word) : (s.setEa v).mieWindow = s.mieWindow := rfl
@[simp] theorem State.setEa_levelView (s : State) (v : Word) : (s.setEa v).levelView = s.levelView := rfl
@[simp] theorem State.setEa_req (s : State) (v : Word) : (s.setEa v).req = s.req := rfl
@[simp] theorem State.setEa_resetIn (s : State) (v : Word) : (s.setEa v).resetIn = s.resetIn := rfl
@[simp] theorem State.setEa_mem (s : State) (v : Word) : (s.setEa v).mem = s.mem := rfl
@[simp] theorem State.setEa_codeStores (s : State) (v : Word) : (s.setEa v).codeStores = s.codeStores := rfl
@[simp] theorem State.setEa_draws (s : State) (v : Word) : (s.setEa v).draws = s.draws := rfl
@[simp] theorem State.setEa_dev (s : State) (v : Word) : (s.setEa v).dev = s.dev := rfl
@[simp] theorem State.setEa_reg (s : State) (v : Word) (x : Reg) : (s.setEa v).reg x = s.reg x := rfl
@[simp] theorem State.setEa_creg (s : State) (v : Word) (x : Reg) : (s.setEa v).creg x = s.creg x := rfl
@[simp] theorem State.setEa_er (s : State) (v : Word) (x : Reg) : (s.setEa v).er x = s.er x := rfl
@[simp] theorem State.setEa_isLarge (s : State) (v : Word) : (s.setEa v).isLarge = s.isLarge := rfl
@[simp] theorem State.setEa_elevel (s : State) (v : Word) : (s.setEa v).elevel = s.elevel := rfl

@[simp] theorem State.setDsr_r (s : State) (v : Byte) : (s.setDsr v).r = s.r := rfl
@[simp] theorem State.setDsr_cr (s : State) (v : Byte) : (s.setDsr v).cr = s.cr := rfl
@[simp] theorem State.setDsr_psw (s : State) (v : Byte) : (s.setDsr v).psw = s.psw := rfl
@[simp] theorem State.setDsr_pc (s : State) (v : Byte) : (s.setDsr v).pc = s.pc := rfl
@[simp] theorem State.setDsr_csr (s : State) (v : Byte) : (s.setDsr v).csr = s.csr := rfl
@[simp] theorem State.setDsr_lr (s : State) (v : Byte) : (s.setDsr v).lr = s.lr := rfl
@[simp] theorem State.setDsr_elr1 (s : State) (v : Byte) : (s.setDsr v).elr1 = s.elr1 := rfl
@[simp] theorem State.setDsr_elr2 (s : State) (v : Byte) : (s.setDsr v).elr2 = s.elr2 := rfl
@[simp] theorem State.setDsr_elr3 (s : State) (v : Byte) : (s.setDsr v).elr3 = s.elr3 := rfl
@[simp] theorem State.setDsr_lcsr (s : State) (v : Byte) : (s.setDsr v).lcsr = s.lcsr := rfl
@[simp] theorem State.setDsr_ecsr1 (s : State) (v : Byte) : (s.setDsr v).ecsr1 = s.ecsr1 := rfl
@[simp] theorem State.setDsr_ecsr2 (s : State) (v : Byte) : (s.setDsr v).ecsr2 = s.ecsr2 := rfl
@[simp] theorem State.setDsr_ecsr3 (s : State) (v : Byte) : (s.setDsr v).ecsr3 = s.ecsr3 := rfl
@[simp] theorem State.setDsr_epsw1 (s : State) (v : Byte) : (s.setDsr v).epsw1 = s.epsw1 := rfl
@[simp] theorem State.setDsr_epsw2 (s : State) (v : Byte) : (s.setDsr v).epsw2 = s.epsw2 := rfl
@[simp] theorem State.setDsr_epsw3 (s : State) (v : Byte) : (s.setDsr v).epsw3 = s.epsw3 := rfl
@[simp] theorem State.setDsr_sp (s : State) (v : Byte) : (s.setDsr v).sp = s.sp := rfl
@[simp] theorem State.setDsr_ea (s : State) (v : Byte) : (s.setDsr v).ea = s.ea := rfl
@[simp] theorem State.setDsr_ar (s : State) (v : Byte) : (s.setDsr v).ar = s.ar := rfl
@[simp] theorem State.setDsr_dsr (s : State) (v : Byte) : (s.setDsr v).dsr = v := rfl
@[simp] theorem State.setDsr_pfx (s : State) (v : Byte) : (s.setDsr v).pfx = s.pfx := rfl
@[simp] theorem State.setDsr_iblock (s : State) (v : Byte) : (s.setDsr v).iblock = s.iblock := rfl
@[simp] theorem State.setDsr_entryBlock (s : State) (v : Byte) : (s.setDsr v).entryBlock = s.entryBlock := rfl
@[simp] theorem State.setDsr_eiWindow (s : State) (v : Byte) : (s.setDsr v).eiWindow = s.eiWindow := rfl
@[simp] theorem State.setDsr_mieWindow (s : State) (v : Byte) : (s.setDsr v).mieWindow = s.mieWindow := rfl
@[simp] theorem State.setDsr_levelView (s : State) (v : Byte) : (s.setDsr v).levelView = s.levelView := rfl
@[simp] theorem State.setDsr_req (s : State) (v : Byte) : (s.setDsr v).req = s.req := rfl
@[simp] theorem State.setDsr_resetIn (s : State) (v : Byte) : (s.setDsr v).resetIn = s.resetIn := rfl
@[simp] theorem State.setDsr_mem (s : State) (v : Byte) : (s.setDsr v).mem = s.mem := rfl
@[simp] theorem State.setDsr_codeStores (s : State) (v : Byte) : (s.setDsr v).codeStores = s.codeStores := rfl
@[simp] theorem State.setDsr_draws (s : State) (v : Byte) : (s.setDsr v).draws = s.draws := rfl
@[simp] theorem State.setDsr_dev (s : State) (v : Byte) : (s.setDsr v).dev = s.dev := rfl
@[simp] theorem State.setDsr_reg (s : State) (v : Byte) (x : Reg) : (s.setDsr v).reg x = s.reg x := rfl
@[simp] theorem State.setDsr_creg (s : State) (v : Byte) (x : Reg) : (s.setDsr v).creg x = s.creg x := rfl
@[simp] theorem State.setDsr_er (s : State) (v : Byte) (x : Reg) : (s.setDsr v).er x = s.er x := rfl
@[simp] theorem State.setDsr_isLarge (s : State) (v : Byte) : (s.setDsr v).isLarge = s.isLarge := rfl
@[simp] theorem State.setDsr_elevel (s : State) (v : Byte) : (s.setDsr v).elevel = s.elevel := rfl

@[simp] theorem State.setLr_r (s : State) (v : Word) : (s.setLr v).r = s.r := rfl
@[simp] theorem State.setLr_cr (s : State) (v : Word) : (s.setLr v).cr = s.cr := rfl
@[simp] theorem State.setLr_psw (s : State) (v : Word) : (s.setLr v).psw = s.psw := rfl
@[simp] theorem State.setLr_pc (s : State) (v : Word) : (s.setLr v).pc = s.pc := rfl
@[simp] theorem State.setLr_csr (s : State) (v : Word) : (s.setLr v).csr = s.csr := rfl
@[simp] theorem State.setLr_lr (s : State) (v : Word) : (s.setLr v).lr = v &&& 0xFFFE#16 := rfl
@[simp] theorem State.setLr_elr1 (s : State) (v : Word) : (s.setLr v).elr1 = s.elr1 := rfl
@[simp] theorem State.setLr_elr2 (s : State) (v : Word) : (s.setLr v).elr2 = s.elr2 := rfl
@[simp] theorem State.setLr_elr3 (s : State) (v : Word) : (s.setLr v).elr3 = s.elr3 := rfl
@[simp] theorem State.setLr_lcsr (s : State) (v : Word) : (s.setLr v).lcsr = s.lcsr := rfl
@[simp] theorem State.setLr_ecsr1 (s : State) (v : Word) : (s.setLr v).ecsr1 = s.ecsr1 := rfl
@[simp] theorem State.setLr_ecsr2 (s : State) (v : Word) : (s.setLr v).ecsr2 = s.ecsr2 := rfl
@[simp] theorem State.setLr_ecsr3 (s : State) (v : Word) : (s.setLr v).ecsr3 = s.ecsr3 := rfl
@[simp] theorem State.setLr_epsw1 (s : State) (v : Word) : (s.setLr v).epsw1 = s.epsw1 := rfl
@[simp] theorem State.setLr_epsw2 (s : State) (v : Word) : (s.setLr v).epsw2 = s.epsw2 := rfl
@[simp] theorem State.setLr_epsw3 (s : State) (v : Word) : (s.setLr v).epsw3 = s.epsw3 := rfl
@[simp] theorem State.setLr_sp (s : State) (v : Word) : (s.setLr v).sp = s.sp := rfl
@[simp] theorem State.setLr_ea (s : State) (v : Word) : (s.setLr v).ea = s.ea := rfl
@[simp] theorem State.setLr_ar (s : State) (v : Word) : (s.setLr v).ar = s.ar := rfl
@[simp] theorem State.setLr_dsr (s : State) (v : Word) : (s.setLr v).dsr = s.dsr := rfl
@[simp] theorem State.setLr_pfx (s : State) (v : Word) : (s.setLr v).pfx = s.pfx := rfl
@[simp] theorem State.setLr_iblock (s : State) (v : Word) : (s.setLr v).iblock = s.iblock := rfl
@[simp] theorem State.setLr_entryBlock (s : State) (v : Word) : (s.setLr v).entryBlock = s.entryBlock := rfl
@[simp] theorem State.setLr_eiWindow (s : State) (v : Word) : (s.setLr v).eiWindow = s.eiWindow := rfl
@[simp] theorem State.setLr_mieWindow (s : State) (v : Word) : (s.setLr v).mieWindow = s.mieWindow := rfl
@[simp] theorem State.setLr_levelView (s : State) (v : Word) : (s.setLr v).levelView = s.levelView := rfl
@[simp] theorem State.setLr_req (s : State) (v : Word) : (s.setLr v).req = s.req := rfl
@[simp] theorem State.setLr_resetIn (s : State) (v : Word) : (s.setLr v).resetIn = s.resetIn := rfl
@[simp] theorem State.setLr_mem (s : State) (v : Word) : (s.setLr v).mem = s.mem := rfl
@[simp] theorem State.setLr_codeStores (s : State) (v : Word) : (s.setLr v).codeStores = s.codeStores := rfl
@[simp] theorem State.setLr_draws (s : State) (v : Word) : (s.setLr v).draws = s.draws := rfl
@[simp] theorem State.setLr_dev (s : State) (v : Word) : (s.setLr v).dev = s.dev := rfl
@[simp] theorem State.setLr_reg (s : State) (v : Word) (x : Reg) : (s.setLr v).reg x = s.reg x := rfl
@[simp] theorem State.setLr_creg (s : State) (v : Word) (x : Reg) : (s.setLr v).creg x = s.creg x := rfl
@[simp] theorem State.setLr_er (s : State) (v : Word) (x : Reg) : (s.setLr v).er x = s.er x := rfl
@[simp] theorem State.setLr_isLarge (s : State) (v : Word) : (s.setLr v).isLarge = s.isLarge := rfl
@[simp] theorem State.setLr_elevel (s : State) (v : Word) : (s.setLr v).elevel = s.elevel := rfl

@[simp] theorem State.latchAr_r (s : State) (off : Word) : (s.latchAr off).r = s.r := rfl
@[simp] theorem State.latchAr_cr (s : State) (off : Word) : (s.latchAr off).cr = s.cr := rfl
@[simp] theorem State.latchAr_psw (s : State) (off : Word) : (s.latchAr off).psw = s.psw := rfl
@[simp] theorem State.latchAr_pc (s : State) (off : Word) : (s.latchAr off).pc = s.pc := rfl
@[simp] theorem State.latchAr_csr (s : State) (off : Word) : (s.latchAr off).csr = s.csr := rfl
@[simp] theorem State.latchAr_lr (s : State) (off : Word) : (s.latchAr off).lr = s.lr := rfl
@[simp] theorem State.latchAr_elr1 (s : State) (off : Word) : (s.latchAr off).elr1 = s.elr1 := rfl
@[simp] theorem State.latchAr_elr2 (s : State) (off : Word) : (s.latchAr off).elr2 = s.elr2 := rfl
@[simp] theorem State.latchAr_elr3 (s : State) (off : Word) : (s.latchAr off).elr3 = s.elr3 := rfl
@[simp] theorem State.latchAr_lcsr (s : State) (off : Word) : (s.latchAr off).lcsr = s.lcsr := rfl
@[simp] theorem State.latchAr_ecsr1 (s : State) (off : Word) : (s.latchAr off).ecsr1 = s.ecsr1 := rfl
@[simp] theorem State.latchAr_ecsr2 (s : State) (off : Word) : (s.latchAr off).ecsr2 = s.ecsr2 := rfl
@[simp] theorem State.latchAr_ecsr3 (s : State) (off : Word) : (s.latchAr off).ecsr3 = s.ecsr3 := rfl
@[simp] theorem State.latchAr_epsw1 (s : State) (off : Word) : (s.latchAr off).epsw1 = s.epsw1 := rfl
@[simp] theorem State.latchAr_epsw2 (s : State) (off : Word) : (s.latchAr off).epsw2 = s.epsw2 := rfl
@[simp] theorem State.latchAr_epsw3 (s : State) (off : Word) : (s.latchAr off).epsw3 = s.epsw3 := rfl
@[simp] theorem State.latchAr_sp (s : State) (off : Word) : (s.latchAr off).sp = s.sp := rfl
@[simp] theorem State.latchAr_ea (s : State) (off : Word) : (s.latchAr off).ea = s.ea := rfl
@[simp] theorem State.latchAr_ar (s : State) (off : Word) : (s.latchAr off).ar = off := rfl
@[simp] theorem State.latchAr_dsr (s : State) (off : Word) : (s.latchAr off).dsr = s.dsr := rfl
@[simp] theorem State.latchAr_pfx (s : State) (off : Word) : (s.latchAr off).pfx = s.pfx := rfl
@[simp] theorem State.latchAr_iblock (s : State) (off : Word) : (s.latchAr off).iblock = s.iblock := rfl
@[simp] theorem State.latchAr_entryBlock (s : State) (off : Word) : (s.latchAr off).entryBlock = s.entryBlock := rfl
@[simp] theorem State.latchAr_eiWindow (s : State) (off : Word) : (s.latchAr off).eiWindow = s.eiWindow := rfl
@[simp] theorem State.latchAr_mieWindow (s : State) (off : Word) : (s.latchAr off).mieWindow = s.mieWindow := rfl
@[simp] theorem State.latchAr_levelView (s : State) (off : Word) : (s.latchAr off).levelView = s.levelView := rfl
@[simp] theorem State.latchAr_req (s : State) (off : Word) : (s.latchAr off).req = s.req := rfl
@[simp] theorem State.latchAr_resetIn (s : State) (off : Word) : (s.latchAr off).resetIn = s.resetIn := rfl
@[simp] theorem State.latchAr_mem (s : State) (off : Word) : (s.latchAr off).mem = s.mem := rfl
@[simp] theorem State.latchAr_codeStores (s : State) (off : Word) : (s.latchAr off).codeStores = s.codeStores := rfl
@[simp] theorem State.latchAr_draws (s : State) (off : Word) : (s.latchAr off).draws = s.draws := rfl
@[simp] theorem State.latchAr_dev (s : State) (off : Word) : (s.latchAr off).dev = s.dev := rfl
@[simp] theorem State.latchAr_reg (s : State) (off : Word) (x : Reg) : (s.latchAr off).reg x = s.reg x := rfl
@[simp] theorem State.latchAr_creg (s : State) (off : Word) (x : Reg) : (s.latchAr off).creg x = s.creg x := rfl
@[simp] theorem State.latchAr_er (s : State) (off : Word) (x : Reg) : (s.latchAr off).er x = s.er x := rfl
@[simp] theorem State.latchAr_isLarge (s : State) (off : Word) : (s.latchAr off).isLarge = s.isLarge := rfl
@[simp] theorem State.latchAr_elevel (s : State) (off : Word) : (s.latchAr off).elevel = s.elevel := rfl

@[simp] theorem State.drawn_r (s : State) (k : Nat) : (s.drawn k).r = s.r := rfl
@[simp] theorem State.drawn_cr (s : State) (k : Nat) : (s.drawn k).cr = s.cr := rfl
@[simp] theorem State.drawn_psw (s : State) (k : Nat) : (s.drawn k).psw = s.psw := rfl
@[simp] theorem State.drawn_pc (s : State) (k : Nat) : (s.drawn k).pc = s.pc := rfl
@[simp] theorem State.drawn_csr (s : State) (k : Nat) : (s.drawn k).csr = s.csr := rfl
@[simp] theorem State.drawn_lr (s : State) (k : Nat) : (s.drawn k).lr = s.lr := rfl
@[simp] theorem State.drawn_elr1 (s : State) (k : Nat) : (s.drawn k).elr1 = s.elr1 := rfl
@[simp] theorem State.drawn_elr2 (s : State) (k : Nat) : (s.drawn k).elr2 = s.elr2 := rfl
@[simp] theorem State.drawn_elr3 (s : State) (k : Nat) : (s.drawn k).elr3 = s.elr3 := rfl
@[simp] theorem State.drawn_lcsr (s : State) (k : Nat) : (s.drawn k).lcsr = s.lcsr := rfl
@[simp] theorem State.drawn_ecsr1 (s : State) (k : Nat) : (s.drawn k).ecsr1 = s.ecsr1 := rfl
@[simp] theorem State.drawn_ecsr2 (s : State) (k : Nat) : (s.drawn k).ecsr2 = s.ecsr2 := rfl
@[simp] theorem State.drawn_ecsr3 (s : State) (k : Nat) : (s.drawn k).ecsr3 = s.ecsr3 := rfl
@[simp] theorem State.drawn_epsw1 (s : State) (k : Nat) : (s.drawn k).epsw1 = s.epsw1 := rfl
@[simp] theorem State.drawn_epsw2 (s : State) (k : Nat) : (s.drawn k).epsw2 = s.epsw2 := rfl
@[simp] theorem State.drawn_epsw3 (s : State) (k : Nat) : (s.drawn k).epsw3 = s.epsw3 := rfl
@[simp] theorem State.drawn_sp (s : State) (k : Nat) : (s.drawn k).sp = s.sp := rfl
@[simp] theorem State.drawn_ea (s : State) (k : Nat) : (s.drawn k).ea = s.ea := rfl
@[simp] theorem State.drawn_ar (s : State) (k : Nat) : (s.drawn k).ar = s.ar := rfl
@[simp] theorem State.drawn_dsr (s : State) (k : Nat) : (s.drawn k).dsr = s.dsr := rfl
@[simp] theorem State.drawn_pfx (s : State) (k : Nat) : (s.drawn k).pfx = s.pfx := rfl
@[simp] theorem State.drawn_iblock (s : State) (k : Nat) : (s.drawn k).iblock = s.iblock := rfl
@[simp] theorem State.drawn_entryBlock (s : State) (k : Nat) : (s.drawn k).entryBlock = s.entryBlock := rfl
@[simp] theorem State.drawn_eiWindow (s : State) (k : Nat) : (s.drawn k).eiWindow = s.eiWindow := rfl
@[simp] theorem State.drawn_mieWindow (s : State) (k : Nat) : (s.drawn k).mieWindow = s.mieWindow := rfl
@[simp] theorem State.drawn_levelView (s : State) (k : Nat) : (s.drawn k).levelView = s.levelView := rfl
@[simp] theorem State.drawn_req (s : State) (k : Nat) : (s.drawn k).req = s.req := rfl
@[simp] theorem State.drawn_resetIn (s : State) (k : Nat) : (s.drawn k).resetIn = s.resetIn := rfl
@[simp] theorem State.drawn_mem (s : State) (k : Nat) : (s.drawn k).mem = s.mem := rfl
@[simp] theorem State.drawn_codeStores (s : State) (k : Nat) : (s.drawn k).codeStores = s.codeStores := rfl
@[simp] theorem State.drawn_draws (s : State) (k : Nat) : (s.drawn k).draws = s.draws + k := rfl
@[simp] theorem State.drawn_dev (s : State) (k : Nat) : (s.drawn k).dev = s.dev := rfl
@[simp] theorem State.drawn_reg (s : State) (k : Nat) (x : Reg) : (s.drawn k).reg x = s.reg x := rfl
@[simp] theorem State.drawn_creg (s : State) (k : Nat) (x : Reg) : (s.drawn k).creg x = s.creg x := rfl
@[simp] theorem State.drawn_er (s : State) (k : Nat) (x : Reg) : (s.drawn k).er x = s.er x := rfl
@[simp] theorem State.drawn_isLarge (s : State) (k : Nat) : (s.drawn k).isLarge = s.isLarge := rfl
@[simp] theorem State.drawn_elevel (s : State) (k : Nat) : (s.drawn k).elevel = s.elevel := rfl

@[simp] theorem State.setCsr_r (s : State) (v : CodeSeg) : (s.setCsr v).r = s.r := rfl
@[simp] theorem State.setCsr_cr (s : State) (v : CodeSeg) : (s.setCsr v).cr = s.cr := rfl
@[simp] theorem State.setCsr_psw (s : State) (v : CodeSeg) : (s.setCsr v).psw = s.psw := rfl
@[simp] theorem State.setCsr_pc (s : State) (v : CodeSeg) : (s.setCsr v).pc = s.pc := rfl
@[simp] theorem State.setCsr_csr (s : State) (v : CodeSeg) : (s.setCsr v).csr = s.segWrite s.csr v := rfl
@[simp] theorem State.setCsr_lr (s : State) (v : CodeSeg) : (s.setCsr v).lr = s.lr := rfl
@[simp] theorem State.setCsr_elr1 (s : State) (v : CodeSeg) : (s.setCsr v).elr1 = s.elr1 := rfl
@[simp] theorem State.setCsr_elr2 (s : State) (v : CodeSeg) : (s.setCsr v).elr2 = s.elr2 := rfl
@[simp] theorem State.setCsr_elr3 (s : State) (v : CodeSeg) : (s.setCsr v).elr3 = s.elr3 := rfl
@[simp] theorem State.setCsr_lcsr (s : State) (v : CodeSeg) : (s.setCsr v).lcsr = s.lcsr := rfl
@[simp] theorem State.setCsr_ecsr1 (s : State) (v : CodeSeg) : (s.setCsr v).ecsr1 = s.ecsr1 := rfl
@[simp] theorem State.setCsr_ecsr2 (s : State) (v : CodeSeg) : (s.setCsr v).ecsr2 = s.ecsr2 := rfl
@[simp] theorem State.setCsr_ecsr3 (s : State) (v : CodeSeg) : (s.setCsr v).ecsr3 = s.ecsr3 := rfl
@[simp] theorem State.setCsr_epsw1 (s : State) (v : CodeSeg) : (s.setCsr v).epsw1 = s.epsw1 := rfl
@[simp] theorem State.setCsr_epsw2 (s : State) (v : CodeSeg) : (s.setCsr v).epsw2 = s.epsw2 := rfl
@[simp] theorem State.setCsr_epsw3 (s : State) (v : CodeSeg) : (s.setCsr v).epsw3 = s.epsw3 := rfl
@[simp] theorem State.setCsr_sp (s : State) (v : CodeSeg) : (s.setCsr v).sp = s.sp := rfl
@[simp] theorem State.setCsr_ea (s : State) (v : CodeSeg) : (s.setCsr v).ea = s.ea := rfl
@[simp] theorem State.setCsr_ar (s : State) (v : CodeSeg) : (s.setCsr v).ar = s.ar := rfl
@[simp] theorem State.setCsr_dsr (s : State) (v : CodeSeg) : (s.setCsr v).dsr = s.dsr := rfl
@[simp] theorem State.setCsr_pfx (s : State) (v : CodeSeg) : (s.setCsr v).pfx = s.pfx := rfl
@[simp] theorem State.setCsr_iblock (s : State) (v : CodeSeg) : (s.setCsr v).iblock = s.iblock := rfl
@[simp] theorem State.setCsr_entryBlock (s : State) (v : CodeSeg) : (s.setCsr v).entryBlock = s.entryBlock := rfl
@[simp] theorem State.setCsr_eiWindow (s : State) (v : CodeSeg) : (s.setCsr v).eiWindow = s.eiWindow := rfl
@[simp] theorem State.setCsr_mieWindow (s : State) (v : CodeSeg) : (s.setCsr v).mieWindow = s.mieWindow := rfl
@[simp] theorem State.setCsr_levelView (s : State) (v : CodeSeg) : (s.setCsr v).levelView = s.levelView := rfl
@[simp] theorem State.setCsr_req (s : State) (v : CodeSeg) : (s.setCsr v).req = s.req := rfl
@[simp] theorem State.setCsr_resetIn (s : State) (v : CodeSeg) : (s.setCsr v).resetIn = s.resetIn := rfl
@[simp] theorem State.setCsr_mem (s : State) (v : CodeSeg) : (s.setCsr v).mem = s.mem := rfl
@[simp] theorem State.setCsr_codeStores (s : State) (v : CodeSeg) : (s.setCsr v).codeStores = s.codeStores := rfl
@[simp] theorem State.setCsr_draws (s : State) (v : CodeSeg) : (s.setCsr v).draws = s.draws := rfl
@[simp] theorem State.setCsr_dev (s : State) (v : CodeSeg) : (s.setCsr v).dev = s.dev := rfl
@[simp] theorem State.setCsr_reg (s : State) (v : CodeSeg) (x : Reg) : (s.setCsr v).reg x = s.reg x := rfl
@[simp] theorem State.setCsr_creg (s : State) (v : CodeSeg) (x : Reg) : (s.setCsr v).creg x = s.creg x := rfl
@[simp] theorem State.setCsr_er (s : State) (v : CodeSeg) (x : Reg) : (s.setCsr v).er x = s.er x := rfl
@[simp] theorem State.setCsr_isLarge (s : State) (v : CodeSeg) : (s.setCsr v).isLarge = s.isLarge := rfl
@[simp] theorem State.setCsr_elevel (s : State) (v : CodeSeg) : (s.setCsr v).elevel = s.elevel := rfl

@[simp] theorem State.setLcsr_r (s : State) (v : CodeSeg) : (s.setLcsr v).r = s.r := rfl
@[simp] theorem State.setLcsr_cr (s : State) (v : CodeSeg) : (s.setLcsr v).cr = s.cr := rfl
@[simp] theorem State.setLcsr_psw (s : State) (v : CodeSeg) : (s.setLcsr v).psw = s.psw := rfl
@[simp] theorem State.setLcsr_pc (s : State) (v : CodeSeg) : (s.setLcsr v).pc = s.pc := rfl
@[simp] theorem State.setLcsr_csr (s : State) (v : CodeSeg) : (s.setLcsr v).csr = s.csr := rfl
@[simp] theorem State.setLcsr_lr (s : State) (v : CodeSeg) : (s.setLcsr v).lr = s.lr := rfl
@[simp] theorem State.setLcsr_elr1 (s : State) (v : CodeSeg) : (s.setLcsr v).elr1 = s.elr1 := rfl
@[simp] theorem State.setLcsr_elr2 (s : State) (v : CodeSeg) : (s.setLcsr v).elr2 = s.elr2 := rfl
@[simp] theorem State.setLcsr_elr3 (s : State) (v : CodeSeg) : (s.setLcsr v).elr3 = s.elr3 := rfl
@[simp] theorem State.setLcsr_lcsr (s : State) (v : CodeSeg) : (s.setLcsr v).lcsr = s.segWrite s.lcsr v := rfl
@[simp] theorem State.setLcsr_ecsr1 (s : State) (v : CodeSeg) : (s.setLcsr v).ecsr1 = s.ecsr1 := rfl
@[simp] theorem State.setLcsr_ecsr2 (s : State) (v : CodeSeg) : (s.setLcsr v).ecsr2 = s.ecsr2 := rfl
@[simp] theorem State.setLcsr_ecsr3 (s : State) (v : CodeSeg) : (s.setLcsr v).ecsr3 = s.ecsr3 := rfl
@[simp] theorem State.setLcsr_epsw1 (s : State) (v : CodeSeg) : (s.setLcsr v).epsw1 = s.epsw1 := rfl
@[simp] theorem State.setLcsr_epsw2 (s : State) (v : CodeSeg) : (s.setLcsr v).epsw2 = s.epsw2 := rfl
@[simp] theorem State.setLcsr_epsw3 (s : State) (v : CodeSeg) : (s.setLcsr v).epsw3 = s.epsw3 := rfl
@[simp] theorem State.setLcsr_sp (s : State) (v : CodeSeg) : (s.setLcsr v).sp = s.sp := rfl
@[simp] theorem State.setLcsr_ea (s : State) (v : CodeSeg) : (s.setLcsr v).ea = s.ea := rfl
@[simp] theorem State.setLcsr_ar (s : State) (v : CodeSeg) : (s.setLcsr v).ar = s.ar := rfl
@[simp] theorem State.setLcsr_dsr (s : State) (v : CodeSeg) : (s.setLcsr v).dsr = s.dsr := rfl
@[simp] theorem State.setLcsr_pfx (s : State) (v : CodeSeg) : (s.setLcsr v).pfx = s.pfx := rfl
@[simp] theorem State.setLcsr_iblock (s : State) (v : CodeSeg) : (s.setLcsr v).iblock = s.iblock := rfl
@[simp] theorem State.setLcsr_entryBlock (s : State) (v : CodeSeg) : (s.setLcsr v).entryBlock = s.entryBlock := rfl
@[simp] theorem State.setLcsr_eiWindow (s : State) (v : CodeSeg) : (s.setLcsr v).eiWindow = s.eiWindow := rfl
@[simp] theorem State.setLcsr_mieWindow (s : State) (v : CodeSeg) : (s.setLcsr v).mieWindow = s.mieWindow := rfl
@[simp] theorem State.setLcsr_levelView (s : State) (v : CodeSeg) : (s.setLcsr v).levelView = s.levelView := rfl
@[simp] theorem State.setLcsr_req (s : State) (v : CodeSeg) : (s.setLcsr v).req = s.req := rfl
@[simp] theorem State.setLcsr_resetIn (s : State) (v : CodeSeg) : (s.setLcsr v).resetIn = s.resetIn := rfl
@[simp] theorem State.setLcsr_mem (s : State) (v : CodeSeg) : (s.setLcsr v).mem = s.mem := rfl
@[simp] theorem State.setLcsr_codeStores (s : State) (v : CodeSeg) : (s.setLcsr v).codeStores = s.codeStores := rfl
@[simp] theorem State.setLcsr_draws (s : State) (v : CodeSeg) : (s.setLcsr v).draws = s.draws := rfl
@[simp] theorem State.setLcsr_dev (s : State) (v : CodeSeg) : (s.setLcsr v).dev = s.dev := rfl
@[simp] theorem State.setLcsr_reg (s : State) (v : CodeSeg) (x : Reg) : (s.setLcsr v).reg x = s.reg x := rfl
@[simp] theorem State.setLcsr_creg (s : State) (v : CodeSeg) (x : Reg) : (s.setLcsr v).creg x = s.creg x := rfl
@[simp] theorem State.setLcsr_er (s : State) (v : CodeSeg) (x : Reg) : (s.setLcsr v).er x = s.er x := rfl
@[simp] theorem State.setLcsr_isLarge (s : State) (v : CodeSeg) : (s.setLcsr v).isLarge = s.isLarge := rfl
@[simp] theorem State.setLcsr_elevel (s : State) (v : CodeSeg) : (s.setLcsr v).elevel = s.elevel := rfl

@[simp] theorem State.setPc_r (s : State) (t : Word) : (s.setPc t).r = s.r := rfl
@[simp] theorem State.setPc_cr (s : State) (t : Word) : (s.setPc t).cr = s.cr := rfl
@[simp] theorem State.setPc_psw (s : State) (t : Word) : (s.setPc t).psw = s.psw := rfl
@[simp] theorem State.setPc_pc (s : State) (t : Word) : (s.setPc t).pc = t &&& 0xFFFE#16 := rfl
@[simp] theorem State.setPc_csr (s : State) (t : Word) : (s.setPc t).csr = s.csr := rfl
@[simp] theorem State.setPc_lr (s : State) (t : Word) : (s.setPc t).lr = s.lr := rfl
@[simp] theorem State.setPc_elr1 (s : State) (t : Word) : (s.setPc t).elr1 = s.elr1 := rfl
@[simp] theorem State.setPc_elr2 (s : State) (t : Word) : (s.setPc t).elr2 = s.elr2 := rfl
@[simp] theorem State.setPc_elr3 (s : State) (t : Word) : (s.setPc t).elr3 = s.elr3 := rfl
@[simp] theorem State.setPc_lcsr (s : State) (t : Word) : (s.setPc t).lcsr = s.lcsr := rfl
@[simp] theorem State.setPc_ecsr1 (s : State) (t : Word) : (s.setPc t).ecsr1 = s.ecsr1 := rfl
@[simp] theorem State.setPc_ecsr2 (s : State) (t : Word) : (s.setPc t).ecsr2 = s.ecsr2 := rfl
@[simp] theorem State.setPc_ecsr3 (s : State) (t : Word) : (s.setPc t).ecsr3 = s.ecsr3 := rfl
@[simp] theorem State.setPc_epsw1 (s : State) (t : Word) : (s.setPc t).epsw1 = s.epsw1 := rfl
@[simp] theorem State.setPc_epsw2 (s : State) (t : Word) : (s.setPc t).epsw2 = s.epsw2 := rfl
@[simp] theorem State.setPc_epsw3 (s : State) (t : Word) : (s.setPc t).epsw3 = s.epsw3 := rfl
@[simp] theorem State.setPc_sp (s : State) (t : Word) : (s.setPc t).sp = s.sp := rfl
@[simp] theorem State.setPc_ea (s : State) (t : Word) : (s.setPc t).ea = s.ea := rfl
@[simp] theorem State.setPc_ar (s : State) (t : Word) : (s.setPc t).ar = s.ar := rfl
@[simp] theorem State.setPc_dsr (s : State) (t : Word) : (s.setPc t).dsr = s.dsr := rfl
@[simp] theorem State.setPc_pfx (s : State) (t : Word) : (s.setPc t).pfx = s.pfx := rfl
@[simp] theorem State.setPc_iblock (s : State) (t : Word) : (s.setPc t).iblock = s.iblock := rfl
@[simp] theorem State.setPc_entryBlock (s : State) (t : Word) : (s.setPc t).entryBlock = s.entryBlock := rfl
@[simp] theorem State.setPc_eiWindow (s : State) (t : Word) : (s.setPc t).eiWindow = s.eiWindow := rfl
@[simp] theorem State.setPc_mieWindow (s : State) (t : Word) : (s.setPc t).mieWindow = s.mieWindow := rfl
@[simp] theorem State.setPc_levelView (s : State) (t : Word) : (s.setPc t).levelView = s.levelView := rfl
@[simp] theorem State.setPc_req (s : State) (t : Word) : (s.setPc t).req = s.req := rfl
@[simp] theorem State.setPc_resetIn (s : State) (t : Word) : (s.setPc t).resetIn = s.resetIn := rfl
@[simp] theorem State.setPc_mem (s : State) (t : Word) : (s.setPc t).mem = s.mem := rfl
@[simp] theorem State.setPc_codeStores (s : State) (t : Word) : (s.setPc t).codeStores = s.codeStores := rfl
@[simp] theorem State.setPc_draws (s : State) (t : Word) : (s.setPc t).draws = s.draws := rfl
@[simp] theorem State.setPc_dev (s : State) (t : Word) : (s.setPc t).dev = s.dev := rfl
@[simp] theorem State.setPc_reg (s : State) (t : Word) (x : Reg) : (s.setPc t).reg x = s.reg x := rfl
@[simp] theorem State.setPc_creg (s : State) (t : Word) (x : Reg) : (s.setPc t).creg x = s.creg x := rfl
@[simp] theorem State.setPc_er (s : State) (t : Word) (x : Reg) : (s.setPc t).er x = s.er x := rfl
@[simp] theorem State.setPc_isLarge (s : State) (t : Word) : (s.setPc t).isLarge = s.isLarge := rfl
@[simp] theorem State.setPc_elevel (s : State) (t : Word) : (s.setPc t).elevel = s.elevel := rfl

@[simp] theorem State.storeByte_r (s : State) (k : Nat) (v : Byte) : (s.storeByte k v).r = s.r := rfl
@[simp] theorem State.storeByte_cr (s : State) (k : Nat) (v : Byte) : (s.storeByte k v).cr = s.cr := rfl
@[simp] theorem State.storeByte_psw (s : State) (k : Nat) (v : Byte) : (s.storeByte k v).psw = s.psw := rfl
@[simp] theorem State.storeByte_pc (s : State) (k : Nat) (v : Byte) : (s.storeByte k v).pc = s.pc := rfl
@[simp] theorem State.storeByte_csr (s : State) (k : Nat) (v : Byte) : (s.storeByte k v).csr = s.csr := rfl
@[simp] theorem State.storeByte_lr (s : State) (k : Nat) (v : Byte) : (s.storeByte k v).lr = s.lr := rfl
@[simp] theorem State.storeByte_elr1 (s : State) (k : Nat) (v : Byte) : (s.storeByte k v).elr1 = s.elr1 := rfl
@[simp] theorem State.storeByte_elr2 (s : State) (k : Nat) (v : Byte) : (s.storeByte k v).elr2 = s.elr2 := rfl
@[simp] theorem State.storeByte_elr3 (s : State) (k : Nat) (v : Byte) : (s.storeByte k v).elr3 = s.elr3 := rfl
@[simp] theorem State.storeByte_lcsr (s : State) (k : Nat) (v : Byte) : (s.storeByte k v).lcsr = s.lcsr := rfl
@[simp] theorem State.storeByte_ecsr1 (s : State) (k : Nat) (v : Byte) : (s.storeByte k v).ecsr1 = s.ecsr1 := rfl
@[simp] theorem State.storeByte_ecsr2 (s : State) (k : Nat) (v : Byte) : (s.storeByte k v).ecsr2 = s.ecsr2 := rfl
@[simp] theorem State.storeByte_ecsr3 (s : State) (k : Nat) (v : Byte) : (s.storeByte k v).ecsr3 = s.ecsr3 := rfl
@[simp] theorem State.storeByte_epsw1 (s : State) (k : Nat) (v : Byte) : (s.storeByte k v).epsw1 = s.epsw1 := rfl
@[simp] theorem State.storeByte_epsw2 (s : State) (k : Nat) (v : Byte) : (s.storeByte k v).epsw2 = s.epsw2 := rfl
@[simp] theorem State.storeByte_epsw3 (s : State) (k : Nat) (v : Byte) : (s.storeByte k v).epsw3 = s.epsw3 := rfl
@[simp] theorem State.storeByte_sp (s : State) (k : Nat) (v : Byte) : (s.storeByte k v).sp = s.sp := rfl
@[simp] theorem State.storeByte_ea (s : State) (k : Nat) (v : Byte) : (s.storeByte k v).ea = s.ea := rfl
@[simp] theorem State.storeByte_ar (s : State) (k : Nat) (v : Byte) : (s.storeByte k v).ar = s.ar := rfl
@[simp] theorem State.storeByte_dsr (s : State) (k : Nat) (v : Byte) : (s.storeByte k v).dsr = s.dsr := rfl
@[simp] theorem State.storeByte_pfx (s : State) (k : Nat) (v : Byte) : (s.storeByte k v).pfx = s.pfx := rfl
@[simp] theorem State.storeByte_iblock (s : State) (k : Nat) (v : Byte) : (s.storeByte k v).iblock = s.iblock := rfl
@[simp] theorem State.storeByte_entryBlock (s : State) (k : Nat) (v : Byte) : (s.storeByte k v).entryBlock = s.entryBlock := rfl
@[simp] theorem State.storeByte_eiWindow (s : State) (k : Nat) (v : Byte) : (s.storeByte k v).eiWindow = s.eiWindow := rfl
@[simp] theorem State.storeByte_mieWindow (s : State) (k : Nat) (v : Byte) : (s.storeByte k v).mieWindow = s.mieWindow := rfl
@[simp] theorem State.storeByte_levelView (s : State) (k : Nat) (v : Byte) : (s.storeByte k v).levelView = s.levelView := rfl
@[simp] theorem State.storeByte_req (s : State) (k : Nat) (v : Byte) : (s.storeByte k v).req = s.req := rfl
@[simp] theorem State.storeByte_resetIn (s : State) (k : Nat) (v : Byte) : (s.storeByte k v).resetIn = s.resetIn := rfl
@[simp] theorem State.storeByte_mem (s : State) (k : Nat) (v : Byte) : (s.storeByte k v).mem = s.mem.write k v := rfl
@[simp] theorem State.storeByte_codeStores (s : State) (k : Nat) (v : Byte) : (s.storeByte k v).codeStores = if isSharedKey k then s.codeStores.add k else s.codeStores := rfl
@[simp] theorem State.storeByte_draws (s : State) (k : Nat) (v : Byte) : (s.storeByte k v).draws = s.draws := rfl
@[simp] theorem State.storeByte_dev (s : State) (k : Nat) (v : Byte) : (s.storeByte k v).dev = s.dev := rfl
@[simp] theorem State.storeByte_reg (s : State) (k : Nat) (v : Byte) (x : Reg) : (s.storeByte k v).reg x = s.reg x := rfl
@[simp] theorem State.storeByte_creg (s : State) (k : Nat) (v : Byte) (x : Reg) : (s.storeByte k v).creg x = s.creg x := rfl
@[simp] theorem State.storeByte_er (s : State) (k : Nat) (v : Byte) (x : Reg) : (s.storeByte k v).er x = s.er x := rfl
@[simp] theorem State.storeByte_isLarge (s : State) (k : Nat) (v : Byte) : (s.storeByte k v).isLarge = s.isLarge := rfl
@[simp] theorem State.storeByte_elevel (s : State) (k : Nat) (v : Byte) : (s.storeByte k v).elevel = s.elevel := rfl

@[simp] theorem State.settle_r (s : State) : (s.settle).r = s.r := rfl
@[simp] theorem State.settle_cr (s : State) : (s.settle).cr = s.cr := rfl
@[simp] theorem State.settle_psw (s : State) : (s.settle).psw = s.psw := rfl
@[simp] theorem State.settle_pc (s : State) : (s.settle).pc = s.pc := rfl
@[simp] theorem State.settle_csr (s : State) : (s.settle).csr = s.csr := rfl
@[simp] theorem State.settle_lr (s : State) : (s.settle).lr = s.lr := rfl
@[simp] theorem State.settle_elr1 (s : State) : (s.settle).elr1 = s.elr1 := rfl
@[simp] theorem State.settle_elr2 (s : State) : (s.settle).elr2 = s.elr2 := rfl
@[simp] theorem State.settle_elr3 (s : State) : (s.settle).elr3 = s.elr3 := rfl
@[simp] theorem State.settle_lcsr (s : State) : (s.settle).lcsr = s.lcsr := rfl
@[simp] theorem State.settle_ecsr1 (s : State) : (s.settle).ecsr1 = s.ecsr1 := rfl
@[simp] theorem State.settle_ecsr2 (s : State) : (s.settle).ecsr2 = s.ecsr2 := rfl
@[simp] theorem State.settle_ecsr3 (s : State) : (s.settle).ecsr3 = s.ecsr3 := rfl
@[simp] theorem State.settle_epsw1 (s : State) : (s.settle).epsw1 = s.epsw1 := rfl
@[simp] theorem State.settle_epsw2 (s : State) : (s.settle).epsw2 = s.epsw2 := rfl
@[simp] theorem State.settle_epsw3 (s : State) : (s.settle).epsw3 = s.epsw3 := rfl
@[simp] theorem State.settle_sp (s : State) : (s.settle).sp = s.sp := rfl
@[simp] theorem State.settle_ea (s : State) : (s.settle).ea = s.ea := rfl
@[simp] theorem State.settle_ar (s : State) : (s.settle).ar = s.ar := rfl
@[simp] theorem State.settle_dsr (s : State) : (s.settle).dsr = s.dsr := rfl
@[simp] theorem State.settle_pfx (s : State) : (s.settle).pfx = false := rfl
@[simp] theorem State.settle_iblock (s : State) : (s.settle).iblock = s.iblock := rfl
@[simp] theorem State.settle_entryBlock (s : State) : (s.settle).entryBlock = s.entryBlock := rfl
@[simp] theorem State.settle_eiWindow (s : State) : (s.settle).eiWindow = s.eiWindow - 1 := rfl
@[simp] theorem State.settle_mieWindow (s : State) : (s.settle).mieWindow = s.mieWindow - 1 := rfl
@[simp] theorem State.settle_levelView (s : State) : (s.settle).levelView = none := rfl
@[simp] theorem State.settle_req (s : State) : (s.settle).req = s.req := rfl
@[simp] theorem State.settle_resetIn (s : State) : (s.settle).resetIn = s.resetIn := rfl
@[simp] theorem State.settle_mem (s : State) : (s.settle).mem = s.mem := rfl
@[simp] theorem State.settle_codeStores (s : State) : (s.settle).codeStores = s.codeStores := rfl
@[simp] theorem State.settle_draws (s : State) : (s.settle).draws = s.draws := rfl
@[simp] theorem State.settle_dev (s : State) : (s.settle).dev = s.dev := rfl
@[simp] theorem State.settle_reg (s : State) (x : Reg) : (s.settle).reg x = s.reg x := rfl
@[simp] theorem State.settle_creg (s : State) (x : Reg) : (s.settle).creg x = s.creg x := rfl
@[simp] theorem State.settle_er (s : State) (x : Reg) : (s.settle).er x = s.er x := rfl
@[simp] theorem State.settle_isLarge (s : State) : (s.settle).isLarge = s.isLarge := rfl
@[simp] theorem State.settle_elevel (s : State) : (s.settle).elevel = s.elevel := rfl

@[simp] theorem State.finish_r (s : State) (t : Word) : (s.finish t).r = s.r := rfl
@[simp] theorem State.finish_cr (s : State) (t : Word) : (s.finish t).cr = s.cr := rfl
@[simp] theorem State.finish_psw (s : State) (t : Word) : (s.finish t).psw = s.psw := rfl
@[simp] theorem State.finish_pc (s : State) (t : Word) : (s.finish t).pc = t &&& 0xFFFE#16 := rfl
@[simp] theorem State.finish_csr (s : State) (t : Word) : (s.finish t).csr = s.csr := rfl
@[simp] theorem State.finish_lr (s : State) (t : Word) : (s.finish t).lr = s.lr := rfl
@[simp] theorem State.finish_elr1 (s : State) (t : Word) : (s.finish t).elr1 = s.elr1 := rfl
@[simp] theorem State.finish_elr2 (s : State) (t : Word) : (s.finish t).elr2 = s.elr2 := rfl
@[simp] theorem State.finish_elr3 (s : State) (t : Word) : (s.finish t).elr3 = s.elr3 := rfl
@[simp] theorem State.finish_lcsr (s : State) (t : Word) : (s.finish t).lcsr = s.lcsr := rfl
@[simp] theorem State.finish_ecsr1 (s : State) (t : Word) : (s.finish t).ecsr1 = s.ecsr1 := rfl
@[simp] theorem State.finish_ecsr2 (s : State) (t : Word) : (s.finish t).ecsr2 = s.ecsr2 := rfl
@[simp] theorem State.finish_ecsr3 (s : State) (t : Word) : (s.finish t).ecsr3 = s.ecsr3 := rfl
@[simp] theorem State.finish_epsw1 (s : State) (t : Word) : (s.finish t).epsw1 = s.epsw1 := rfl
@[simp] theorem State.finish_epsw2 (s : State) (t : Word) : (s.finish t).epsw2 = s.epsw2 := rfl
@[simp] theorem State.finish_epsw3 (s : State) (t : Word) : (s.finish t).epsw3 = s.epsw3 := rfl
@[simp] theorem State.finish_sp (s : State) (t : Word) : (s.finish t).sp = s.sp := rfl
@[simp] theorem State.finish_ea (s : State) (t : Word) : (s.finish t).ea = s.ea := rfl
@[simp] theorem State.finish_ar (s : State) (t : Word) : (s.finish t).ar = s.ar := rfl
@[simp] theorem State.finish_dsr (s : State) (t : Word) : (s.finish t).dsr = s.dsr := rfl
@[simp] theorem State.finish_pfx (s : State) (t : Word) : (s.finish t).pfx = false := rfl
@[simp] theorem State.finish_iblock (s : State) (t : Word) : (s.finish t).iblock = false := rfl
@[simp] theorem State.finish_entryBlock (s : State) (t : Word) : (s.finish t).entryBlock = false := rfl
@[simp] theorem State.finish_eiWindow (s : State) (t : Word) : (s.finish t).eiWindow = s.eiWindow - 1 := rfl
@[simp] theorem State.finish_mieWindow (s : State) (t : Word) : (s.finish t).mieWindow = s.mieWindow - 1 := rfl
@[simp] theorem State.finish_levelView (s : State) (t : Word) : (s.finish t).levelView = none := rfl
@[simp] theorem State.finish_req (s : State) (t : Word) : (s.finish t).req = s.req := rfl
@[simp] theorem State.finish_resetIn (s : State) (t : Word) : (s.finish t).resetIn = s.resetIn := rfl
@[simp] theorem State.finish_mem (s : State) (t : Word) : (s.finish t).mem = s.mem := rfl
@[simp] theorem State.finish_codeStores (s : State) (t : Word) : (s.finish t).codeStores = s.codeStores := rfl
@[simp] theorem State.finish_draws (s : State) (t : Word) : (s.finish t).draws = s.draws := rfl
@[simp] theorem State.finish_dev (s : State) (t : Word) : (s.finish t).dev = s.dev := rfl
@[simp] theorem State.finish_reg (s : State) (t : Word) (x : Reg) : (s.finish t).reg x = s.reg x := rfl
@[simp] theorem State.finish_creg (s : State) (t : Word) (x : Reg) : (s.finish t).creg x = s.creg x := rfl
@[simp] theorem State.finish_er (s : State) (t : Word) (x : Reg) : (s.finish t).er x = s.er x := rfl
@[simp] theorem State.finish_isLarge (s : State) (t : Word) : (s.finish t).isLarge = s.isLarge := rfl
@[simp] theorem State.finish_elevel (s : State) (t : Word) : (s.finish t).elevel = s.elevel := rfl

@[simp] theorem State.setElr_r (s : State) (k : Level) (v : Word) : (s.setElr k v).r = s.r := by
  unfold State.setElr; split <;> rfl
@[simp] theorem State.setElr_cr (s : State) (k : Level) (v : Word) : (s.setElr k v).cr = s.cr := by
  unfold State.setElr; split <;> rfl
@[simp] theorem State.setElr_psw (s : State) (k : Level) (v : Word) : (s.setElr k v).psw = s.psw := by
  unfold State.setElr; split <;> rfl
@[simp] theorem State.setElr_pc (s : State) (k : Level) (v : Word) : (s.setElr k v).pc = s.pc := by
  unfold State.setElr; split <;> rfl
@[simp] theorem State.setElr_csr (s : State) (k : Level) (v : Word) : (s.setElr k v).csr = s.csr := by
  unfold State.setElr; split <;> rfl
@[simp] theorem State.setElr_lcsr (s : State) (k : Level) (v : Word) : (s.setElr k v).lcsr = s.lcsr := by
  unfold State.setElr; split <;> rfl
@[simp] theorem State.setElr_ecsr1 (s : State) (k : Level) (v : Word) : (s.setElr k v).ecsr1 = s.ecsr1 := by
  unfold State.setElr; split <;> rfl
@[simp] theorem State.setElr_ecsr2 (s : State) (k : Level) (v : Word) : (s.setElr k v).ecsr2 = s.ecsr2 := by
  unfold State.setElr; split <;> rfl
@[simp] theorem State.setElr_ecsr3 (s : State) (k : Level) (v : Word) : (s.setElr k v).ecsr3 = s.ecsr3 := by
  unfold State.setElr; split <;> rfl
@[simp] theorem State.setElr_epsw1 (s : State) (k : Level) (v : Word) : (s.setElr k v).epsw1 = s.epsw1 := by
  unfold State.setElr; split <;> rfl
@[simp] theorem State.setElr_epsw2 (s : State) (k : Level) (v : Word) : (s.setElr k v).epsw2 = s.epsw2 := by
  unfold State.setElr; split <;> rfl
@[simp] theorem State.setElr_epsw3 (s : State) (k : Level) (v : Word) : (s.setElr k v).epsw3 = s.epsw3 := by
  unfold State.setElr; split <;> rfl
@[simp] theorem State.setElr_sp (s : State) (k : Level) (v : Word) : (s.setElr k v).sp = s.sp := by
  unfold State.setElr; split <;> rfl
@[simp] theorem State.setElr_ea (s : State) (k : Level) (v : Word) : (s.setElr k v).ea = s.ea := by
  unfold State.setElr; split <;> rfl
@[simp] theorem State.setElr_ar (s : State) (k : Level) (v : Word) : (s.setElr k v).ar = s.ar := by
  unfold State.setElr; split <;> rfl
@[simp] theorem State.setElr_dsr (s : State) (k : Level) (v : Word) : (s.setElr k v).dsr = s.dsr := by
  unfold State.setElr; split <;> rfl
@[simp] theorem State.setElr_pfx (s : State) (k : Level) (v : Word) : (s.setElr k v).pfx = s.pfx := by
  unfold State.setElr; split <;> rfl
@[simp] theorem State.setElr_iblock (s : State) (k : Level) (v : Word) : (s.setElr k v).iblock = s.iblock := by
  unfold State.setElr; split <;> rfl
@[simp] theorem State.setElr_entryBlock (s : State) (k : Level) (v : Word) : (s.setElr k v).entryBlock = s.entryBlock := by
  unfold State.setElr; split <;> rfl
@[simp] theorem State.setElr_eiWindow (s : State) (k : Level) (v : Word) : (s.setElr k v).eiWindow = s.eiWindow := by
  unfold State.setElr; split <;> rfl
@[simp] theorem State.setElr_mieWindow (s : State) (k : Level) (v : Word) : (s.setElr k v).mieWindow = s.mieWindow := by
  unfold State.setElr; split <;> rfl
@[simp] theorem State.setElr_levelView (s : State) (k : Level) (v : Word) : (s.setElr k v).levelView = s.levelView := by
  unfold State.setElr; split <;> rfl
@[simp] theorem State.setElr_req (s : State) (k : Level) (v : Word) : (s.setElr k v).req = s.req := by
  unfold State.setElr; split <;> rfl
@[simp] theorem State.setElr_resetIn (s : State) (k : Level) (v : Word) : (s.setElr k v).resetIn = s.resetIn := by
  unfold State.setElr; split <;> rfl
@[simp] theorem State.setElr_mem (s : State) (k : Level) (v : Word) : (s.setElr k v).mem = s.mem := by
  unfold State.setElr; split <;> rfl
@[simp] theorem State.setElr_codeStores (s : State) (k : Level) (v : Word) : (s.setElr k v).codeStores = s.codeStores := by
  unfold State.setElr; split <;> rfl
@[simp] theorem State.setElr_draws (s : State) (k : Level) (v : Word) : (s.setElr k v).draws = s.draws := by
  unfold State.setElr; split <;> rfl
@[simp] theorem State.setElr_dev (s : State) (k : Level) (v : Word) : (s.setElr k v).dev = s.dev := by
  unfold State.setElr; split <;> rfl
@[simp] theorem State.setElr_reg (s : State) (k : Level) (v : Word) (x : Reg) : (s.setElr k v).reg x = s.reg x := by
  unfold State.setElr; split <;> rfl
@[simp] theorem State.setElr_isLarge (s : State) (k : Level) (v : Word) : (s.setElr k v).isLarge = s.isLarge := by
  unfold State.setElr; split <;> rfl

@[simp] theorem State.setEcsr_r (s : State) (k : Level) (v : CodeSeg) : (s.setEcsr k v).r = s.r := by
  unfold State.setEcsr; split <;> rfl
@[simp] theorem State.setEcsr_cr (s : State) (k : Level) (v : CodeSeg) : (s.setEcsr k v).cr = s.cr := by
  unfold State.setEcsr; split <;> rfl
@[simp] theorem State.setEcsr_psw (s : State) (k : Level) (v : CodeSeg) : (s.setEcsr k v).psw = s.psw := by
  unfold State.setEcsr; split <;> rfl
@[simp] theorem State.setEcsr_pc (s : State) (k : Level) (v : CodeSeg) : (s.setEcsr k v).pc = s.pc := by
  unfold State.setEcsr; split <;> rfl
@[simp] theorem State.setEcsr_csr (s : State) (k : Level) (v : CodeSeg) : (s.setEcsr k v).csr = s.csr := by
  unfold State.setEcsr; split <;> rfl
@[simp] theorem State.setEcsr_lr (s : State) (k : Level) (v : CodeSeg) : (s.setEcsr k v).lr = s.lr := by
  unfold State.setEcsr; split <;> rfl
@[simp] theorem State.setEcsr_elr1 (s : State) (k : Level) (v : CodeSeg) : (s.setEcsr k v).elr1 = s.elr1 := by
  unfold State.setEcsr; split <;> rfl
@[simp] theorem State.setEcsr_elr2 (s : State) (k : Level) (v : CodeSeg) : (s.setEcsr k v).elr2 = s.elr2 := by
  unfold State.setEcsr; split <;> rfl
@[simp] theorem State.setEcsr_elr3 (s : State) (k : Level) (v : CodeSeg) : (s.setEcsr k v).elr3 = s.elr3 := by
  unfold State.setEcsr; split <;> rfl
@[simp] theorem State.setEcsr_epsw1 (s : State) (k : Level) (v : CodeSeg) : (s.setEcsr k v).epsw1 = s.epsw1 := by
  unfold State.setEcsr; split <;> rfl
@[simp] theorem State.setEcsr_epsw2 (s : State) (k : Level) (v : CodeSeg) : (s.setEcsr k v).epsw2 = s.epsw2 := by
  unfold State.setEcsr; split <;> rfl
@[simp] theorem State.setEcsr_epsw3 (s : State) (k : Level) (v : CodeSeg) : (s.setEcsr k v).epsw3 = s.epsw3 := by
  unfold State.setEcsr; split <;> rfl
@[simp] theorem State.setEcsr_sp (s : State) (k : Level) (v : CodeSeg) : (s.setEcsr k v).sp = s.sp := by
  unfold State.setEcsr; split <;> rfl
@[simp] theorem State.setEcsr_ea (s : State) (k : Level) (v : CodeSeg) : (s.setEcsr k v).ea = s.ea := by
  unfold State.setEcsr; split <;> rfl
@[simp] theorem State.setEcsr_ar (s : State) (k : Level) (v : CodeSeg) : (s.setEcsr k v).ar = s.ar := by
  unfold State.setEcsr; split <;> rfl
@[simp] theorem State.setEcsr_dsr (s : State) (k : Level) (v : CodeSeg) : (s.setEcsr k v).dsr = s.dsr := by
  unfold State.setEcsr; split <;> rfl
@[simp] theorem State.setEcsr_pfx (s : State) (k : Level) (v : CodeSeg) : (s.setEcsr k v).pfx = s.pfx := by
  unfold State.setEcsr; split <;> rfl
@[simp] theorem State.setEcsr_iblock (s : State) (k : Level) (v : CodeSeg) : (s.setEcsr k v).iblock = s.iblock := by
  unfold State.setEcsr; split <;> rfl
@[simp] theorem State.setEcsr_entryBlock (s : State) (k : Level) (v : CodeSeg) : (s.setEcsr k v).entryBlock = s.entryBlock := by
  unfold State.setEcsr; split <;> rfl
@[simp] theorem State.setEcsr_eiWindow (s : State) (k : Level) (v : CodeSeg) : (s.setEcsr k v).eiWindow = s.eiWindow := by
  unfold State.setEcsr; split <;> rfl
@[simp] theorem State.setEcsr_mieWindow (s : State) (k : Level) (v : CodeSeg) : (s.setEcsr k v).mieWindow = s.mieWindow := by
  unfold State.setEcsr; split <;> rfl
@[simp] theorem State.setEcsr_levelView (s : State) (k : Level) (v : CodeSeg) : (s.setEcsr k v).levelView = s.levelView := by
  unfold State.setEcsr; split <;> rfl
@[simp] theorem State.setEcsr_req (s : State) (k : Level) (v : CodeSeg) : (s.setEcsr k v).req = s.req := by
  unfold State.setEcsr; split <;> rfl
@[simp] theorem State.setEcsr_resetIn (s : State) (k : Level) (v : CodeSeg) : (s.setEcsr k v).resetIn = s.resetIn := by
  unfold State.setEcsr; split <;> rfl
@[simp] theorem State.setEcsr_mem (s : State) (k : Level) (v : CodeSeg) : (s.setEcsr k v).mem = s.mem := by
  unfold State.setEcsr; split <;> rfl
@[simp] theorem State.setEcsr_codeStores (s : State) (k : Level) (v : CodeSeg) : (s.setEcsr k v).codeStores = s.codeStores := by
  unfold State.setEcsr; split <;> rfl
@[simp] theorem State.setEcsr_draws (s : State) (k : Level) (v : CodeSeg) : (s.setEcsr k v).draws = s.draws := by
  unfold State.setEcsr; split <;> rfl
@[simp] theorem State.setEcsr_dev (s : State) (k : Level) (v : CodeSeg) : (s.setEcsr k v).dev = s.dev := by
  unfold State.setEcsr; split <;> rfl
@[simp] theorem State.setEcsr_reg (s : State) (k : Level) (v : CodeSeg) (x : Reg) : (s.setEcsr k v).reg x = s.reg x := by
  unfold State.setEcsr; split <;> rfl
@[simp] theorem State.setEcsr_isLarge (s : State) (k : Level) (v : CodeSeg) : (s.setEcsr k v).isLarge = s.isLarge := by
  unfold State.setEcsr; split <;> rfl

@[simp] theorem State.setEpsw_r (s : State) (k : Level) (v : Byte) : (s.setEpsw k v).r = s.r := by
  unfold State.setEpsw; split <;> rfl
@[simp] theorem State.setEpsw_cr (s : State) (k : Level) (v : Byte) : (s.setEpsw k v).cr = s.cr := by
  unfold State.setEpsw; split <;> rfl
@[simp] theorem State.setEpsw_psw (s : State) (k : Level) (v : Byte) : (s.setEpsw k v).psw = s.psw := by
  unfold State.setEpsw; split <;> rfl
@[simp] theorem State.setEpsw_pc (s : State) (k : Level) (v : Byte) : (s.setEpsw k v).pc = s.pc := by
  unfold State.setEpsw; split <;> rfl
@[simp] theorem State.setEpsw_csr (s : State) (k : Level) (v : Byte) : (s.setEpsw k v).csr = s.csr := by
  unfold State.setEpsw; split <;> rfl
@[simp] theorem State.setEpsw_lr (s : State) (k : Level) (v : Byte) : (s.setEpsw k v).lr = s.lr := by
  unfold State.setEpsw; split <;> rfl
@[simp] theorem State.setEpsw_elr1 (s : State) (k : Level) (v : Byte) : (s.setEpsw k v).elr1 = s.elr1 := by
  unfold State.setEpsw; split <;> rfl
@[simp] theorem State.setEpsw_elr2 (s : State) (k : Level) (v : Byte) : (s.setEpsw k v).elr2 = s.elr2 := by
  unfold State.setEpsw; split <;> rfl
@[simp] theorem State.setEpsw_elr3 (s : State) (k : Level) (v : Byte) : (s.setEpsw k v).elr3 = s.elr3 := by
  unfold State.setEpsw; split <;> rfl
@[simp] theorem State.setEpsw_lcsr (s : State) (k : Level) (v : Byte) : (s.setEpsw k v).lcsr = s.lcsr := by
  unfold State.setEpsw; split <;> rfl
@[simp] theorem State.setEpsw_ecsr1 (s : State) (k : Level) (v : Byte) : (s.setEpsw k v).ecsr1 = s.ecsr1 := by
  unfold State.setEpsw; split <;> rfl
@[simp] theorem State.setEpsw_ecsr2 (s : State) (k : Level) (v : Byte) : (s.setEpsw k v).ecsr2 = s.ecsr2 := by
  unfold State.setEpsw; split <;> rfl
@[simp] theorem State.setEpsw_ecsr3 (s : State) (k : Level) (v : Byte) : (s.setEpsw k v).ecsr3 = s.ecsr3 := by
  unfold State.setEpsw; split <;> rfl
@[simp] theorem State.setEpsw_sp (s : State) (k : Level) (v : Byte) : (s.setEpsw k v).sp = s.sp := by
  unfold State.setEpsw; split <;> rfl
@[simp] theorem State.setEpsw_ea (s : State) (k : Level) (v : Byte) : (s.setEpsw k v).ea = s.ea := by
  unfold State.setEpsw; split <;> rfl
@[simp] theorem State.setEpsw_ar (s : State) (k : Level) (v : Byte) : (s.setEpsw k v).ar = s.ar := by
  unfold State.setEpsw; split <;> rfl
@[simp] theorem State.setEpsw_dsr (s : State) (k : Level) (v : Byte) : (s.setEpsw k v).dsr = s.dsr := by
  unfold State.setEpsw; split <;> rfl
@[simp] theorem State.setEpsw_pfx (s : State) (k : Level) (v : Byte) : (s.setEpsw k v).pfx = s.pfx := by
  unfold State.setEpsw; split <;> rfl
@[simp] theorem State.setEpsw_iblock (s : State) (k : Level) (v : Byte) : (s.setEpsw k v).iblock = s.iblock := by
  unfold State.setEpsw; split <;> rfl
@[simp] theorem State.setEpsw_entryBlock (s : State) (k : Level) (v : Byte) : (s.setEpsw k v).entryBlock = s.entryBlock := by
  unfold State.setEpsw; split <;> rfl
@[simp] theorem State.setEpsw_eiWindow (s : State) (k : Level) (v : Byte) : (s.setEpsw k v).eiWindow = s.eiWindow := by
  unfold State.setEpsw; split <;> rfl
@[simp] theorem State.setEpsw_mieWindow (s : State) (k : Level) (v : Byte) : (s.setEpsw k v).mieWindow = s.mieWindow := by
  unfold State.setEpsw; split <;> rfl
@[simp] theorem State.setEpsw_levelView (s : State) (k : Level) (v : Byte) : (s.setEpsw k v).levelView = s.levelView := by
  unfold State.setEpsw; split <;> rfl
@[simp] theorem State.setEpsw_req (s : State) (k : Level) (v : Byte) : (s.setEpsw k v).req = s.req := by
  unfold State.setEpsw; split <;> rfl
@[simp] theorem State.setEpsw_resetIn (s : State) (k : Level) (v : Byte) : (s.setEpsw k v).resetIn = s.resetIn := by
  unfold State.setEpsw; split <;> rfl
@[simp] theorem State.setEpsw_mem (s : State) (k : Level) (v : Byte) : (s.setEpsw k v).mem = s.mem := by
  unfold State.setEpsw; split <;> rfl
@[simp] theorem State.setEpsw_codeStores (s : State) (k : Level) (v : Byte) : (s.setEpsw k v).codeStores = s.codeStores := by
  unfold State.setEpsw; split <;> rfl
@[simp] theorem State.setEpsw_draws (s : State) (k : Level) (v : Byte) : (s.setEpsw k v).draws = s.draws := by
  unfold State.setEpsw; split <;> rfl
@[simp] theorem State.setEpsw_dev (s : State) (k : Level) (v : Byte) : (s.setEpsw k v).dev = s.dev := by
  unfold State.setEpsw; split <;> rfl
@[simp] theorem State.setEpsw_reg (s : State) (k : Level) (v : Byte) (x : Reg) : (s.setEpsw k v).reg x = s.reg x := by
  unfold State.setEpsw; split <;> rfl
@[simp] theorem State.setEpsw_isLarge (s : State) (k : Level) (v : Byte) : (s.setEpsw k v).isLarge = s.isLarge := by
  unfold State.setEpsw; split <;> rfl

theorem State.setRegs_only (s : State) (n : Reg) (bs : List Byte) :
    s.setRegs n bs = { s with r := (s.setRegs n bs).r } := by
  induction bs generalizing s n with
  | nil => rfl
  | cons b bs ih => rw [State.setRegs, ih]; rfl
@[simp] theorem State.setRegs_cr (s : State) (n : Reg) (bs : List Byte) : (s.setRegs n bs).cr = s.cr := by
  rw [State.setRegs_only]
@[simp] theorem State.setRegs_psw (s : State) (n : Reg) (bs : List Byte) : (s.setRegs n bs).psw = s.psw := by
  rw [State.setRegs_only]
@[simp] theorem State.setRegs_pc (s : State) (n : Reg) (bs : List Byte) : (s.setRegs n bs).pc = s.pc := by
  rw [State.setRegs_only]
@[simp] theorem State.setRegs_csr (s : State) (n : Reg) (bs : List Byte) : (s.setRegs n bs).csr = s.csr := by
  rw [State.setRegs_only]
@[simp] theorem State.setRegs_lr (s : State) (n : Reg) (bs : List Byte) : (s.setRegs n bs).lr = s.lr := by
  rw [State.setRegs_only]
@[simp] theorem State.setRegs_elr1 (s : State) (n : Reg) (bs : List Byte) : (s.setRegs n bs).elr1 = s.elr1 := by
  rw [State.setRegs_only]
@[simp] theorem State.setRegs_elr2 (s : State) (n : Reg) (bs : List Byte) : (s.setRegs n bs).elr2 = s.elr2 := by
  rw [State.setRegs_only]
@[simp] theorem State.setRegs_elr3 (s : State) (n : Reg) (bs : List Byte) : (s.setRegs n bs).elr3 = s.elr3 := by
  rw [State.setRegs_only]
@[simp] theorem State.setRegs_lcsr (s : State) (n : Reg) (bs : List Byte) : (s.setRegs n bs).lcsr = s.lcsr := by
  rw [State.setRegs_only]
@[simp] theorem State.setRegs_ecsr1 (s : State) (n : Reg) (bs : List Byte) : (s.setRegs n bs).ecsr1 = s.ecsr1 := by
  rw [State.setRegs_only]
@[simp] theorem State.setRegs_ecsr2 (s : State) (n : Reg) (bs : List Byte) : (s.setRegs n bs).ecsr2 = s.ecsr2 := by
  rw [State.setRegs_only]
@[simp] theorem State.setRegs_ecsr3 (s : State) (n : Reg) (bs : List Byte) : (s.setRegs n bs).ecsr3 = s.ecsr3 := by
  rw [State.setRegs_only]
@[simp] theorem State.setRegs_epsw1 (s : State) (n : Reg) (bs : List Byte) : (s.setRegs n bs).epsw1 = s.epsw1 := by
  rw [State.setRegs_only]
@[simp] theorem State.setRegs_epsw2 (s : State) (n : Reg) (bs : List Byte) : (s.setRegs n bs).epsw2 = s.epsw2 := by
  rw [State.setRegs_only]
@[simp] theorem State.setRegs_epsw3 (s : State) (n : Reg) (bs : List Byte) : (s.setRegs n bs).epsw3 = s.epsw3 := by
  rw [State.setRegs_only]
@[simp] theorem State.setRegs_sp (s : State) (n : Reg) (bs : List Byte) : (s.setRegs n bs).sp = s.sp := by
  rw [State.setRegs_only]
@[simp] theorem State.setRegs_ea (s : State) (n : Reg) (bs : List Byte) : (s.setRegs n bs).ea = s.ea := by
  rw [State.setRegs_only]
@[simp] theorem State.setRegs_ar (s : State) (n : Reg) (bs : List Byte) : (s.setRegs n bs).ar = s.ar := by
  rw [State.setRegs_only]
@[simp] theorem State.setRegs_dsr (s : State) (n : Reg) (bs : List Byte) : (s.setRegs n bs).dsr = s.dsr := by
  rw [State.setRegs_only]
@[simp] theorem State.setRegs_pfx (s : State) (n : Reg) (bs : List Byte) : (s.setRegs n bs).pfx = s.pfx := by
  rw [State.setRegs_only]
@[simp] theorem State.setRegs_iblock (s : State) (n : Reg) (bs : List Byte) : (s.setRegs n bs).iblock = s.iblock := by
  rw [State.setRegs_only]
@[simp] theorem State.setRegs_entryBlock (s : State) (n : Reg) (bs : List Byte) : (s.setRegs n bs).entryBlock = s.entryBlock := by
  rw [State.setRegs_only]
@[simp] theorem State.setRegs_eiWindow (s : State) (n : Reg) (bs : List Byte) : (s.setRegs n bs).eiWindow = s.eiWindow := by
  rw [State.setRegs_only]
@[simp] theorem State.setRegs_mieWindow (s : State) (n : Reg) (bs : List Byte) : (s.setRegs n bs).mieWindow = s.mieWindow := by
  rw [State.setRegs_only]
@[simp] theorem State.setRegs_levelView (s : State) (n : Reg) (bs : List Byte) : (s.setRegs n bs).levelView = s.levelView := by
  rw [State.setRegs_only]
@[simp] theorem State.setRegs_req (s : State) (n : Reg) (bs : List Byte) : (s.setRegs n bs).req = s.req := by
  rw [State.setRegs_only]
@[simp] theorem State.setRegs_resetIn (s : State) (n : Reg) (bs : List Byte) : (s.setRegs n bs).resetIn = s.resetIn := by
  rw [State.setRegs_only]
@[simp] theorem State.setRegs_mem (s : State) (n : Reg) (bs : List Byte) : (s.setRegs n bs).mem = s.mem := by
  rw [State.setRegs_only]
@[simp] theorem State.setRegs_codeStores (s : State) (n : Reg) (bs : List Byte) : (s.setRegs n bs).codeStores = s.codeStores := by
  rw [State.setRegs_only]
@[simp] theorem State.setRegs_draws (s : State) (n : Reg) (bs : List Byte) : (s.setRegs n bs).draws = s.draws := by
  rw [State.setRegs_only]
@[simp] theorem State.setRegs_dev (s : State) (n : Reg) (bs : List Byte) : (s.setRegs n bs).dev = s.dev := by
  rw [State.setRegs_only]
@[simp] theorem State.setRegs_creg (s : State) (n : Reg) (bs : List Byte) (x : Reg) :
    (s.setRegs n bs).creg x = s.creg x := by
  rw [State.setRegs_only]; rfl
@[simp] theorem State.setRegs_isLarge (s : State) (n : Reg) (bs : List Byte) : (s.setRegs n bs).isLarge = s.isLarge := by
  rw [State.setRegs_only]; rfl

theorem State.setCregs_only (s : State) (n : Reg) (bs : List Byte) :
    s.setCregs n bs = { s with cr := (s.setCregs n bs).cr } := by
  induction bs generalizing s n with
  | nil => rfl
  | cons b bs ih => rw [State.setCregs, ih]; rfl
@[simp] theorem State.setCregs_r (s : State) (n : Reg) (bs : List Byte) : (s.setCregs n bs).r = s.r := by
  rw [State.setCregs_only]
@[simp] theorem State.setCregs_psw (s : State) (n : Reg) (bs : List Byte) : (s.setCregs n bs).psw = s.psw := by
  rw [State.setCregs_only]
@[simp] theorem State.setCregs_pc (s : State) (n : Reg) (bs : List Byte) : (s.setCregs n bs).pc = s.pc := by
  rw [State.setCregs_only]
@[simp] theorem State.setCregs_csr (s : State) (n : Reg) (bs : List Byte) : (s.setCregs n bs).csr = s.csr := by
  rw [State.setCregs_only]
@[simp] theorem State.setCregs_lr (s : State) (n : Reg) (bs : List Byte) : (s.setCregs n bs).lr = s.lr := by
  rw [State.setCregs_only]
@[simp] theorem State.setCregs_elr1 (s : State) (n : Reg) (bs : List Byte) : (s.setCregs n bs).elr1 = s.elr1 := by
  rw [State.setCregs_only]
@[simp] theorem State.setCregs_elr2 (s : State) (n : Reg) (bs : List Byte) : (s.setCregs n bs).elr2 = s.elr2 := by
  rw [State.setCregs_only]
@[simp] theorem State.setCregs_elr3 (s : State) (n : Reg) (bs : List Byte) : (s.setCregs n bs).elr3 = s.elr3 := by
  rw [State.setCregs_only]
@[simp] theorem State.setCregs_lcsr (s : State) (n : Reg) (bs : List Byte) : (s.setCregs n bs).lcsr = s.lcsr := by
  rw [State.setCregs_only]
@[simp] theorem State.setCregs_ecsr1 (s : State) (n : Reg) (bs : List Byte) : (s.setCregs n bs).ecsr1 = s.ecsr1 := by
  rw [State.setCregs_only]
@[simp] theorem State.setCregs_ecsr2 (s : State) (n : Reg) (bs : List Byte) : (s.setCregs n bs).ecsr2 = s.ecsr2 := by
  rw [State.setCregs_only]
@[simp] theorem State.setCregs_ecsr3 (s : State) (n : Reg) (bs : List Byte) : (s.setCregs n bs).ecsr3 = s.ecsr3 := by
  rw [State.setCregs_only]
@[simp] theorem State.setCregs_epsw1 (s : State) (n : Reg) (bs : List Byte) : (s.setCregs n bs).epsw1 = s.epsw1 := by
  rw [State.setCregs_only]
@[simp] theorem State.setCregs_epsw2 (s : State) (n : Reg) (bs : List Byte) : (s.setCregs n bs).epsw2 = s.epsw2 := by
  rw [State.setCregs_only]
@[simp] theorem State.setCregs_epsw3 (s : State) (n : Reg) (bs : List Byte) : (s.setCregs n bs).epsw3 = s.epsw3 := by
  rw [State.setCregs_only]
@[simp] theorem State.setCregs_sp (s : State) (n : Reg) (bs : List Byte) : (s.setCregs n bs).sp = s.sp := by
  rw [State.setCregs_only]
@[simp] theorem State.setCregs_ea (s : State) (n : Reg) (bs : List Byte) : (s.setCregs n bs).ea = s.ea := by
  rw [State.setCregs_only]
@[simp] theorem State.setCregs_ar (s : State) (n : Reg) (bs : List Byte) : (s.setCregs n bs).ar = s.ar := by
  rw [State.setCregs_only]
@[simp] theorem State.setCregs_dsr (s : State) (n : Reg) (bs : List Byte) : (s.setCregs n bs).dsr = s.dsr := by
  rw [State.setCregs_only]
@[simp] theorem State.setCregs_pfx (s : State) (n : Reg) (bs : List Byte) : (s.setCregs n bs).pfx = s.pfx := by
  rw [State.setCregs_only]
@[simp] theorem State.setCregs_iblock (s : State) (n : Reg) (bs : List Byte) : (s.setCregs n bs).iblock = s.iblock := by
  rw [State.setCregs_only]
@[simp] theorem State.setCregs_entryBlock (s : State) (n : Reg) (bs : List Byte) : (s.setCregs n bs).entryBlock = s.entryBlock := by
  rw [State.setCregs_only]
@[simp] theorem State.setCregs_eiWindow (s : State) (n : Reg) (bs : List Byte) : (s.setCregs n bs).eiWindow = s.eiWindow := by
  rw [State.setCregs_only]
@[simp] theorem State.setCregs_mieWindow (s : State) (n : Reg) (bs : List Byte) : (s.setCregs n bs).mieWindow = s.mieWindow := by
  rw [State.setCregs_only]
@[simp] theorem State.setCregs_levelView (s : State) (n : Reg) (bs : List Byte) : (s.setCregs n bs).levelView = s.levelView := by
  rw [State.setCregs_only]
@[simp] theorem State.setCregs_req (s : State) (n : Reg) (bs : List Byte) : (s.setCregs n bs).req = s.req := by
  rw [State.setCregs_only]
@[simp] theorem State.setCregs_resetIn (s : State) (n : Reg) (bs : List Byte) : (s.setCregs n bs).resetIn = s.resetIn := by
  rw [State.setCregs_only]
@[simp] theorem State.setCregs_mem (s : State) (n : Reg) (bs : List Byte) : (s.setCregs n bs).mem = s.mem := by
  rw [State.setCregs_only]
@[simp] theorem State.setCregs_codeStores (s : State) (n : Reg) (bs : List Byte) : (s.setCregs n bs).codeStores = s.codeStores := by
  rw [State.setCregs_only]
@[simp] theorem State.setCregs_draws (s : State) (n : Reg) (bs : List Byte) : (s.setCregs n bs).draws = s.draws := by
  rw [State.setCregs_only]
@[simp] theorem State.setCregs_dev (s : State) (n : Reg) (bs : List Byte) : (s.setCregs n bs).dev = s.dev := by
  rw [State.setCregs_only]
@[simp] theorem State.setCregs_reg (s : State) (n : Reg) (bs : List Byte) (x : Reg) :
    (s.setCregs n bs).reg x = s.reg x := by
  rw [State.setCregs_only]; rfl
@[simp] theorem State.setCregs_isLarge (s : State) (n : Reg) (bs : List Byte) : (s.setCregs n bs).isLarge = s.isLarge := by
  rw [State.setCregs_only]; rfl

end Sys2Proof.Machine
end

