-- ==== Sys2Proof/Laws/Registers.lean ====
section
/-! SUPPORT. Reading a register after a register was written. -/
namespace Sys2Proof.Machine

@[simp] theorem State.reg_setReg (s : State) (n x : Reg) (v : Byte) :
    (s.setReg n v).reg x = if x = n then v else s.reg x := by
  simp [State.reg, State.setReg, Vector.getElem_set, BitVec.toNat_inj, eq_comm]

@[simp] theorem State.creg_setCreg (s : State) (n x : Reg) (v : Byte) :
    (s.setCreg n v).creg x = if x = n then v else s.creg x := by
  simp [State.creg, State.setCreg, Vector.getElem_set, BitVec.toNat_inj, eq_comm]

/-- `R[n+1]` is another register than `R[n]`. -/
@[simp] theorem reg_succ_ne (n : Reg) : ¬ n + 1 = n := by bv_omega

@[simp] theorem reg_ne_succ (n : Reg) : ¬ n = n + 1 := by bv_omega

/-- The registers after `ER[n] <- v` (10_state.md R42). -/
@[simp] theorem State.reg_setEr (s : State) (n x : Reg) (v : Word) :
    (s.setEr n v).reg x =
      if x = n + 1 then v.extractLsb' 8 8 else if x = n then v.extractLsb' 0 8 else s.reg x := by
  simp [State.setEr]

/-- `ER[n]` after `ER[n] <- v` (10_state.md R42). -/
@[simp] theorem State.er_setEr (s : State) (n : Reg) (v : Word) : (s.setEr n v).er n = v := by
  simp [State.er]

/-- A register group holds the bytes it received (10_state.md R43, R44), for groups of at most 16 registers. -/
theorem State.reg_setRegs (s : State) (n x : Reg) (bs : List Byte) (h : bs.length ≤ 16) :
    (s.setRegs n bs).reg x = (bs[(x - n).toNat]?).getD (s.reg x) := by
  induction bs generalizing s n with
  | nil => simp [State.setRegs]
  | cons b bs ih =>
    rw [State.setRegs, ih _ _ (by simp at h; omega)]
    by_cases hx : x = n
    · subst hx
      have h15 : (x - (x + 1)).toNat = 15 := by bv_omega
      simp only [List.length_cons] at h
      rw [h15, List.getElem?_eq_none (by omega)]
      simp
    · have h1 : (x - n).toNat = (x - (n + 1)).toNat + 1 := by bv_omega
      rw [h1]; simp [hx]

theorem State.creg_setCregs (s : State) (n x : Reg) (bs : List Byte) (h : bs.length ≤ 16) :
    (s.setCregs n bs).creg x = (bs[(x - n).toNat]?).getD (s.creg x) := by
  induction bs generalizing s n with
  | nil => simp [State.setCregs]
  | cons b bs ih =>
    rw [State.setCregs, ih _ _ (by simp at h; omega)]
    by_cases hx : x = n
    · subst hx
      have h15 : (x - (x + 1)).toNat = 15 := by bv_omega
      simp only [List.length_cons] at h
      rw [h15, List.getElem?_eq_none (by omega)]
      simp
    · have h1 : (x - n).toNat = (x - (n + 1)).toNat + 1 := by bv_omega
      rw [h1]; simp [hx]

@[simp] theorem State.regs_length (s : State) (n : Reg) (k : Nat) : (s.regs n k).length = k := by simp [State.regs]

@[simp] theorem State.cregs_length (s : State) (n : Reg) (k : Nat) : (s.cregs n k).length = k := by
  simp [State.cregs]

/-- Writing a register group commutes with replacing memory and the count of drawn values. -/
theorem State.setRegs_with (s : State) (n : Reg) (bs : List Byte) (m : Memory) (d : Nat) :
    ({ s with mem := m, draws := d } : State).setRegs n bs = { s.setRegs n bs with mem := m, draws := d } := by
  induction bs generalizing s n with
  | nil => rfl
  | cons b bs ih => exact ih (s.setReg n b) (n + 1)

theorem State.setCregs_with (s : State) (n : Reg) (bs : List Byte) (m : Memory) (d : Nat) :
    ({ s with mem := m, draws := d } : State).setCregs n bs = { s.setCregs n bs with mem := m, draws := d } := by
  induction bs generalizing s n with
  | nil => rfl
  | cons b bs ih => exact ih (s.setCreg n b) (n + 1)

/-- The register group read back after it was written. -/
theorem State.regs_setRegs (s : State) (n : Reg) (bs : List Byte) (h : bs.length ≤ 16) :
    (s.setRegs n bs).regs n bs.length = bs := by
  apply List.ext_getElem (by simp)
  intro i h1 h2
  simp [State.regs, State.reg_setRegs _ _ _ _ h, Nat.mod_eq_of_lt (show i < 16 by omega), h2]

end Sys2Proof.Machine
end

