-- ==== Sys2Proof/Laws/Access.lean ====
section
/-! SUPPORT. What the shared operations over memory and the stack can do, said once for each. -/
namespace Sys2Proof.Machine

@[simp] theorem andThen_next {α β : Type} (a : α) (f : α → Res β) : andThen (.next a) f = f a := rfl
@[simp] theorem andThen_fault {α β : Type} (e : Fault) (f : α → Res β) : andThen (.fault e) f = .fault e := rfl
@[simp] theorem andThen_refused {α β : Type} (e : Refusal) (f : α → Res β) : andThen (.refused e) f = .refused e := rfl

/-- A sequence that answers has answered at each part. -/
theorem andThen_eq_next {α β : Type} {x : Res α} {f : α → Res β} {b : β} (h : andThen x f = .next b) :
    ∃ a, x = .next a ∧ f a = .next b := by
  cases x with
  | next a => exact ⟨a, rfl, h⟩
  | fault e => simp at h
  | refused e => simp at h

theorem andThen_assoc {α β γ : Type} (x : Res α) (f : α → Res β) (g : β → Res γ) :
    andThen (andThen x f) g = andThen x fun a => andThen (f a) g := by cases x <;> rfl

theorem keysOf_succ (d : Device) (seg : Byte) (off : Word) (k : Nat) :
    keysOf d seg off (k + 1) = dataKey d seg off :: keysOf d seg (off + 1) k := by
  simp only [keysOf, List.range_succ_eq_map, List.map_cons, List.map_map]
  congr 1
  · simp
  · apply List.map_congr_left
    intro i _
    have : off + BitVec.ofNat 16 (i + 1) = off + 1 + BitVec.ofNat 16 i := by
      rw [BitVec.ofNat_add]; ac_rfl
    simp [this]

@[simp] theorem keysOf_zero (d : Device) (seg : Byte) (off : Word) : keysOf d seg off 0 = [] := rfl

@[simp] theorem keysOf_length (d : Device) (seg : Byte) (off : Word) (k : Nat) : (keysOf d seg off k).length = k := by
  simp [keysOf]

@[simp] theorem bytesAt_length (s : State) (seg : Byte) (off : Word) (k : Nat) : (bytesAt s seg off k).length = k := by
  simp [bytesAt]

theorem bytesAt_succ (s : State) (seg : Byte) (off : Word) (k : Nat) :
    bytesAt s seg off (k + 1) = s.mem.read (dataKey s.dev seg off) :: bytesAt s seg (off + 1) k := by
  simp [bytesAt, keysOf_succ]

@[simp] theorem bytesAt_zero (s : State) (seg : Byte) (off : Word) : bytesAt s seg off 0 = [] := rfl

/-- What is present and no device is readable memory (00_scope.md R11). -/
theorem canRead_of_not_device {d : Device} {k : Nat} (h : kindAt d k ≠ none) (hd : isDevice d k = false) :
    canRead d k = true := by
  unfold isDevice at hd
  unfold canRead
  cases hk : kindAt d k with
  | none => exact absurd hk h
  | some m => cases m <;> simp_all

/-- A readable byte is read (20_memory.md R114). -/
theorem State.readByte_of_canRead (s : State) (seg : Byte) (off : Word)
    (h : canRead s.dev (dataKey s.dev seg off) = true) :
    s.readByte seg off = .next (s.mem.read (dataKey s.dev seg off), s) := by
  unfold canRead at h
  unfold State.readByte
  cases hk : kindAt s.dev (dataKey s.dev seg off) with
  | none => simp [hk] at h
  | some m => cases m <;> simp_all

/-- A device answers a byte read with a free value (00_scope.md R7). -/
theorem State.readByte_of_device (s : State) (seg : Byte) (off : Word)
    (h : isDevice s.dev (dataKey s.dev seg off) = true) :
    s.readByte seg off = .next (Config.freeByte s.draws, s.drawn 1) := by
  unfold isDevice at h
  unfold State.readByte
  cases hk : kindAt s.dev (dataKey s.dev seg off) with
  | none => simp [hk] at h
  | some m => cases m <;> simp_all

/-- Where MEMMAP has nothing a byte read stops (20_memory.md R114). -/
theorem State.readByte_of_absent (s : State) (seg : Byte) (off : Word)
    (h : kindAt s.dev (dataKey s.dev seg off) = none) : s.readByte seg off = .fault .readAbsent := by
  rw [State.readByte, h]

/-- What a byte read answers, wherever MEMMAP has something: memory its byte, a device a free one. -/
theorem State.readByte_of_answered (s : State) (seg : Byte) (off : Word)
    (h : kindAt s.dev (dataKey s.dev seg off) ≠ none) :
    ∃ b, s.readByte seg off = .next (b, s.drawn (deviceCount s [dataKey s.dev seg off])) ∧
      (isDevice s.dev (dataKey s.dev seg off) = false → b = s.mem.read (dataKey s.dev seg off)) := by
  unfold State.readByte
  cases hk : kindAt s.dev (dataKey s.dev seg off) with
  | none => exact absurd hk h
  | some m => cases m <;> simp [deviceCount, isDevice, hk, State.drawn]

/-- What a byte read can answer: nothing but the count of draws changes. -/
theorem State.readByte_eq_next {s : State} {seg : Byte} {off : Word} {p : Byte × State}
    (h : s.readByte seg off = .next p) : p.2 = { s with draws := p.2.draws } := by
  unfold State.readByte at h
  split at h <;> cases h <;> rfl

/-- A readable range is read (20_memory.md R114). -/
theorem State.readBytes_of_readable (s : State) (seg : Byte) (off : Word) (k : Nat) (h : readable s seg off k) :
    s.readBytes seg off k = .next (bytesAt s seg off k, s) := by
  induction k generalizing off with
  | zero => rfl
  | succ k ih =>
    unfold readable at h
    rw [keysOf_succ] at h
    rw [State.readBytes, State.readByte_of_canRead _ _ _ (h _ List.mem_cons_self), andThen_next,
      ih _ fun x hx => h x (List.mem_cons_of_mem _ hx), andThen_next, bytesAt_succ]

/-- What a range read can answer: nothing but the count of draws changes. -/
theorem State.readBytes_eq_next {s : State} {seg : Byte} {off : Word} {k : Nat} {p : List Byte × State}
    (h : s.readBytes seg off k = .next p) : p.2 = { s with draws := p.2.draws } ∧ p.1.length = k := by
  induction k generalizing s off p with
  | zero => cases h; exact ⟨rfl, rfl⟩
  | succ k ih =>
    rw [State.readBytes] at h
    obtain ⟨b, hb, h⟩ := andThen_eq_next h
    obtain ⟨q, hq, h⟩ := andThen_eq_next h
    cases h
    obtain ⟨h1, h2⟩ := ih hq
    refine ⟨?_, by simpa using h2⟩
    have h0 := State.readByte_eq_next hb
    rw [h0] at h1
    exact h1

/-- Where MEMMAP has something at each byte of a range it is read: memory answers its bytes, devices free ones, one draw
each (20_memory.md R114, 00_scope.md R7). -/
theorem State.readBytes_of_answered (s : State) (seg : Byte) (off : Word) (k : Nat) (h : answered s seg off k) :
    ∃ bs, s.readBytes seg off k = .next (bs, s.drawn (deviceCount s (keysOf s.dev seg off k))) ∧ bs.length = k ∧
      ∀ i b, bs[i]? = some b → isDevice s.dev (dataKey s.dev seg (off + BitVec.ofNat 16 i)) = false →
        b = s.mem.read (dataKey s.dev seg (off + BitVec.ofNat 16 i)) := by
  induction k generalizing s off with
  | zero => exact ⟨[], rfl, rfl, by simp⟩
  | succ k ih =>
    unfold answered at h
    rw [keysOf_succ] at h
    obtain ⟨b, hb, hb2⟩ := s.readByte_of_answered seg off (h _ List.mem_cons_self)
    obtain ⟨bs, hbs, hl, hm⟩ := ih (s.drawn (deviceCount s [dataKey s.dev seg off])) (off + 1)
      fun x hx => h x (List.mem_cons_of_mem _ hx)
    refine ⟨b :: bs, ?_, by simp [hl], ?_⟩
    · rw [State.readBytes, hb, andThen_next]
      simp only
      rw [hbs, andThen_next, keysOf_succ]
      simp only [State.drawn, deviceCount, List.countP_cons, List.countP_nil, Host.Outcome.next.injEq, Prod.mk.injEq,
        State.mk.injEq, true_and, and_true]
      omega
    · intro i c hi hk
      cases i with
      | zero =>
        simp only [List.getElem?_cons_zero, Option.some.injEq] at hi
        subst hi
        simp only [BitVec.add_zero] at hk ⊢
        exact hb2 hk
      | succ i =>
        rw [show off + BitVec.ofNat 16 (i + 1) = off + 1 + BitVec.ofNat 16 i by rw [BitVec.ofNat_add]; ac_rfl] at hk ⊢
        exact hm i c (by simpa using hi) hk

/-- Where MEMMAP has nothing at some byte of a range, the read stops (20_memory.md R114). -/
theorem State.readBytes_of_absent (s : State) (seg : Byte) (off : Word) (k : Nat) (h : someAbsent s seg off k) :
    s.readBytes seg off k = .fault .readAbsent := by
  induction k generalizing s off with
  | zero => obtain ⟨x, hx, -⟩ := h; simp at hx
  | succ k ih =>
    obtain ⟨x, hx, hk⟩ := h
    rw [State.readBytes]
    by_cases h0 : kindAt s.dev (dataKey s.dev seg off) = none
    · rw [State.readByte_of_absent _ _ _ h0]; rfl
    · obtain ⟨b, hb, -⟩ := s.readByte_of_answered seg off h0
      rw [keysOf_succ, List.mem_cons] at hx
      obtain rfl | hx := hx
      · exact absurd hk h0
      · rw [hb, andThen_next]
        simp only
        rw [ih (s.drawn _) (off + 1) ⟨x, hx, hk⟩]; rfl

/-- Two data addresses of one segment with the same key are the same. -/
theorem dataKey_inj {d : Device} {seg : Byte} {a b : Word} (h : dataKey d seg a = dataKey d seg b) : a = b := by
  have ha := a.isLt
  have hb := b.isLt
  have hs := seg.isLt
  apply BitVec.eq_of_toNat_eq
  simp only [dataKey, codeKey, if_true] at h
  split at h <;> split at h <;> omega

/-- Bytes at different keys that are the memory of `s` outside devices are what some memory holds (00_scope.md R7). -/
theorem seenMemory_exists (s : State) (cells : List (Nat × Byte)) (hm : s.mem.wf) (hn : (cells.map (·.1)).Nodup)
    (h : ∀ c ∈ cells, isDevice s.dev c.1 = false → c.2 = s.mem.read c.1) :
    ∃ m, seenMemory s m ∧ Memory.wf m ∧ ∀ c ∈ cells, Memory.read m c.1 = c.2 := by
  induction cells with
  | nil => exact ⟨s.mem, fun _ _ => rfl, hm, by simp⟩
  | cons c cells ih =>
    rw [List.map_cons, List.nodup_cons] at hn
    obtain ⟨m, h1, h2, h3⟩ := ih hn.2 fun x hx => h x (List.mem_cons_of_mem _ hx)
    refine ⟨Memory.write m c.1 c.2, ?_, Memory.wf_write _ _ _ h2, ?_⟩
    · intro x hx
      by_cases e : x = c.1
      · subst e
        rw [Memory.read_write_self _ _ _ h2]
        exact h c List.mem_cons_self hx
      · rw [Memory.read_write_ne _ _ _ _ e]; exact h1 x hx
    · intro x hx
      rw [List.mem_cons] at hx
      obtain rfl | hx := hx
      · exact Memory.read_write_self _ _ _ h2
      · have e : x.1 ≠ c.1 := fun e => hn.1 (List.mem_map.2 ⟨x, hx, e⟩)
        rw [Memory.read_write_ne _ _ _ _ e]
        exact h3 x hx

theorem keysOf_nodup (d : Device) (seg : Byte) (off : Word) (k : Nat) (hk : k ≤ 65536) : (keysOf d seg off k).Nodup := by
  rw [keysOf, List.nodup_map_iff_inj_on List.nodup_range]
  intro i hi j hj e
  have e2 : (off + BitVec.ofNat 16 i).toNat = (off + BitVec.ofNat 16 j).toNat := by rw [dataKey_inj e]
  simp only [List.mem_range] at hi hj
  simp [BitVec.toNat_add] at e2
  have := off.isLt
  omega

/-- Bytes from `seg:off` upwards that are the memory of `s` outside devices are those of some memory (00_scope.md R7). -/
theorem seenMemory_of_bytes (s : State) (seg : Byte) (off : Word) (bs : List Byte) (hm : s.mem.wf)
    (hk : bs.length ≤ 65536)
    (h : ∀ i b, bs[i]? = some b → isDevice s.dev (dataKey s.dev seg (off + BitVec.ofNat 16 i)) = false →
      b = s.mem.read (dataKey s.dev seg (off + BitVec.ofNat 16 i))) :
    ∃ m, seenMemory s m ∧ bytesAt { s with mem := m } seg off bs.length = bs := by
  have hz : ∀ i (hi : i < ((keysOf s.dev seg off bs.length).zip bs).length),
      ((keysOf s.dev seg off bs.length).zip bs)[i] =
        (dataKey s.dev seg (off + BitVec.ofNat 16 i), bs[i]'(by simpa using hi)) := by
    intro i hi
    simp [keysOf]
  obtain ⟨m, h1, -, h3⟩ := seenMemory_exists s ((keysOf s.dev seg off bs.length).zip bs) hm
    (by rw [List.map_fst_zip (by simp)]; exact keysOf_nodup _ _ _ _ hk)
    (by
      intro c hc hd
      obtain ⟨i, hi, rfl⟩ := List.getElem_of_mem hc
      rw [hz] at hd ⊢
      exact h i _ (List.getElem?_eq_getElem _) hd)
  refine ⟨m, h1, ?_⟩
  apply List.ext_getElem (by simp)
  intro i hi hi'
  have := h3 _ (List.getElem_mem (l := (keysOf s.dev seg off bs.length).zip bs) (n := i) (by simpa using hi'))
  rw [hz] at this
  simpa [bytesAt, keysOf] using this

/-- A byte write where nothing stops it: writable memory holds the byte, a device takes it (20_memory.md R116). -/
theorem State.writeByte_of_takes (s : State) (seg : Byte) (off : Word) (v : Byte) (h : takes s seg off 1) :
    s.writeByte seg off v =
      .next (if kindAt s.dev (dataKey s.dev seg off) = some .ram then s.storeByte (dataKey s.dev seg off) v else s) := by
  obtain ⟨h1, h2⟩ := h 0 (by omega)
  simp only [BitVec.add_zero] at h1 h2
  rw [State.writeByte, h1]
  obtain h2 | h2 := h2 <;> rw [h2] <;> rfl

/-- What a byte write can answer (20_memory.md R116, R148). -/
theorem State.writeByte_eq_next {s t : State} {seg : Byte} {off : Word} {v : Byte}
    (h : s.writeByte seg off v = .next t) :
    t = (if kindAt s.dev (dataKey s.dev seg off) = some .ram then s.storeByte (dataKey s.dev seg off) v else s) ∧
      inRomWindow s.dev seg off = false ∧
      (kindAt s.dev (dataKey s.dev seg off) = some .ram ∨ kindAt s.dev (dataKey s.dev seg off) = some .device) := by
  unfold State.writeByte at h
  split at h
  · simp at h
  · split at h <;> simp_all

/-- Where a byte write stops (20_memory.md R116). -/
theorem State.writeByte_of_stop {s : State} {seg : Byte} {off : Word} {e : Res State} (v : Byte)
    (h : writeStop s seg off = some e) : s.writeByte seg off v = e := by
  unfold writeStop at h
  unfold State.writeByte
  split at h
  · rename_i hw; rw [if_pos hw]; exact Option.some.inj h
  · rename_i hw
    rw [if_neg hw]
    cases hk : kindAt s.dev (dataKey s.dev seg off) with
    | none => simp [hk] at h; exact h
    | some m => cases m <;> simp [hk] at h <;> exact h

/-- A byte write stops by one of two faults (20_memory.md R116). -/
theorem writeStop_eq {s : State} {seg : Byte} {off : Word} {e : Res State} (h : writeStop s seg off = some e) :
    e = .fault .writeRomWindow ∨ e = .fault .writeAbsent := by
  unfold writeStop at h
  split_ifs at h <;> cases h
  · exact .inl rfl
  all_goals exact .inr rfl

/-- A byte write that nothing stops is taken. -/
theorem takes_of_no_stop {s : State} {seg : Byte} {off : Word} (h : writeStop s seg off = none) :
    inRomWindow s.dev seg off = false ∧
      (kindAt s.dev (dataKey s.dev seg off) = some .ram ∨ kindAt s.dev (dataKey s.dev seg off) = some .device) := by
  unfold writeStop at h
  split at h
  · simp at h
  · rename_i hw
    refine ⟨by simpa using hw, ?_⟩
    cases hk : kindAt s.dev (dataKey s.dev seg off) with
    | none => simp [hk] at h
    | some m => cases m <;> simp [hk] at h ⊢

/-- A byte write changes neither what stops a later one nor anything but memory and the store record. -/
theorem State.writeByte_dev {s t : State} {seg : Byte} {off : Word} {v : Byte} (h : s.writeByte seg off v = .next t) :
    t.dev = s.dev := by
  rw [(State.writeByte_eq_next h).1]
  split <;> rfl

/-- What a range write does, when it answers: only memory and the store record change, and only at the writable bytes
(20_memory.md R116, R148). -/
theorem State.writeBytes_eq_next {s t : State} {seg : Byte} {off : Word} {bytes : List Byte}
    (h : s.writeBytes seg off bytes = .next t) :
    t = { s with mem := t.mem, codeStores := t.codeStores } ∧
      sameMemBut s t ((keysOf s.dev seg off bytes.length).filter fun x => kindAt s.dev x == some .ram) ∧
      (s.mem.wf → t.mem.wf) ∧ (s.codeStores.wf → t.codeStores.wf) ∧
      ∀ x, x ∈ t.codeStores ↔
        x ∈ s.codeStores ∨
          (x ∈ keysOf s.dev seg off bytes.length ∧ kindAt s.dev x = some .ram ∧ isSharedKey x = true) := by
  induction bytes generalizing s off with
  | nil =>
    simp only [State.writeBytes, Host.Outcome.next.injEq] at h
    subst h
    exact ⟨rfl, fun _ _ => rfl, id, id, by simp⟩
  | cons b bs ih =>
    rw [State.writeBytes] at h
    obtain ⟨s1, h1, h2⟩ := andThen_eq_next h
    have hd := State.writeByte_dev h1
    obtain ⟨hs1, -, -⟩ := State.writeByte_eq_next h1
    obtain ⟨ht, hmem, hwf, hset, hst⟩ := ih h2
    rw [hd] at hmem hst
    by_cases hr : kindAt s.dev (dataKey s.dev seg off) = some .ram
    · rw [if_pos hr] at hs1
      refine ⟨?_, ?_, ?_, ?_, ?_⟩
      · rw [ht, hs1]; rfl
      · intro k hk
        rw [List.length_cons, keysOf_succ, List.filter_cons, if_pos (by simp [hr]), List.mem_cons, not_or] at hk
        rw [hmem k hk.2, hs1]
        exact Memory.read_write_ne _ _ _ _ hk.1
      · intro hm
        apply hwf
        rw [hs1]
        exact Memory.wf_write _ _ _ hm
      · intro hm
        apply hset
        rw [hs1, State.storeByte_codeStores]
        split
        · exact KeySet.wf_add _ _ hm
        · exact hm
      · intro x
        rw [hst x, List.length_cons, keysOf_succ, List.mem_cons, hs1, State.storeByte_codeStores]
        by_cases hsh : isSharedKey (dataKey s.dev seg off) = true
        · rw [if_pos hsh, KeySet.mem_add]
          constructor
          · rintro ((rfl | h) | h)
            · exact .inr ⟨.inl rfl, hr, hsh⟩
            · exact .inl h
            · exact .inr ⟨.inr h.1, h.2⟩
          · rintro (h | ⟨rfl | h, h'⟩)
            · exact .inl (.inr h)
            · exact .inl (.inl rfl)
            · exact .inr ⟨h, h'⟩
        · rw [if_neg hsh]
          constructor
          · rintro (h | h)
            · exact .inl h
            · exact .inr ⟨.inr h.1, h.2⟩
          · rintro (h | ⟨rfl | h, h'⟩)
            · exact .inl h
            · exact absurd h'.2 hsh
            · exact .inr ⟨h, h'⟩
    · rw [if_neg hr] at hs1
      subst hs1
      refine ⟨ht, ?_, hwf, hset, ?_⟩
      · intro k hk
        rw [List.length_cons, keysOf_succ, List.filter_cons, if_neg (by simp [hr])] at hk
        exact hmem k hk
      · intro x
        rw [hst x, List.length_cons, keysOf_succ, List.mem_cons]
        constructor
        · rintro (h | h)
          · exact .inl h
          · exact .inr ⟨.inr h.1, h.2⟩
        · rintro (h | ⟨rfl | h, h'⟩)
          · exact .inl h
          · exact absurd h'.1 hr
          · exact .inr ⟨h, h'⟩

/-- The bytes that were written to writable memory are read back (20_memory.md R112, R116). -/
theorem State.writeBytes_taken {s t : State} {seg : Byte} {off : Word} {bytes : List Byte}
    (h : s.writeBytes seg off bytes = .next t) (hm : s.mem.wf) (hk : bytes.length ≤ 65536) :
    takenAt s t seg off bytes := by
  obtain ⟨-, h2, -, -, h5⟩ := State.writeBytes_eq_next h
  refine ⟨?_, h2, h5⟩
  clear h2 h5
  induction bytes generalizing s off with
  | nil => simp
  | cons b bs ih =>
    rw [State.writeBytes] at h
    obtain ⟨s1, h1, h2⟩ := andThen_eq_next h
    have hd := State.writeByte_dev h1
    obtain ⟨hs1, -, -⟩ := State.writeByte_eq_next h1
    have hm1 : s1.mem.wf := by
      rw [hs1]; split
      · exact Memory.wf_write _ _ _ hm
      · exact hm
    simp only [List.length_cons] at hk
    intro i c hi hr
    cases i with
    | zero =>
      simp only [List.getElem?_cons_zero, Option.some.injEq] at hi
      subst hi
      simp only [BitVec.add_zero] at hr ⊢
      obtain ⟨-, hmem, -, -, -⟩ := State.writeBytes_eq_next h2
      rw [hd] at hmem
      rw [if_pos hr] at hs1
      rw [hmem, hs1]
      · exact Memory.read_write_self _ _ _ hm
      · intro hin
        have hin := List.mem_of_mem_filter hin
        simp only [keysOf, List.mem_map, List.mem_range] at hin
        obtain ⟨i, hi, he⟩ := hin
        have h2 : (off + 1 + BitVec.ofNat 16 i).toNat = off.toNat := by rw [dataKey_inj he]
        simp [BitVec.toNat_add] at h2
        have := off.isLt
        omega
    | succ i =>
      have := ih h2 hm1 (by omega) i c (by simpa using hi)
      rw [hd] at this
      rw [show off + BitVec.ofNat 16 (i + 1) = off + 1 + BitVec.ofNat 16 i by rw [BitVec.ofNat_add]; ac_rfl] at hr ⊢
      exact this hr

/-- A range that memory or devices take is written (20_memory.md R116). -/
theorem State.writeBytes_of_takes (s : State) (seg : Byte) (off : Word) (bytes : List Byte)
    (h : takes s seg off bytes.length) : ∃ t, s.writeBytes seg off bytes = .next t := by
  induction bytes generalizing s off with
  | nil => exact ⟨s, rfl⟩
  | cons b bs ih =>
    have h0 := h 0 (by simp)
    have hb := s.writeByte_of_takes seg off b fun i hi => by
      obtain rfl : i = 0 := by omega
      exact h0
    rw [State.writeBytes, hb, andThen_next]
    apply ih
    intro i hi
    have := h (i + 1) (by simpa using hi)
    rw [show off + BitVec.ofNat 16 (i + 1) = off + 1 + BitVec.ofNat 16 i by rw [BitVec.ofNat_add]; ac_rfl] at this
    split
    · exact this
    · exact this

theorem takes_of_writable {s : State} {seg : Byte} {off : Word} {k : Nat} (h : writable s seg off k) :
    takes s seg off k := fun i hi => ⟨(h i hi).1, .inl (h i hi).2⟩

/-- Where all bytes are writable memory, what is taken is stored. -/
theorem storedAt_of_takenAt {s t : State} {seg : Byte} {base : Word} {bytes : List Byte} (hd : t.dev = s.dev)
    (hw : writable s seg base bytes.length) (h : takenAt s t seg base bytes) : storedAt s t seg base bytes := by
  obtain ⟨h1, h2, h3⟩ := h
  have hram : ∀ x ∈ keysOf s.dev seg base bytes.length, kindAt s.dev x = some .ram := by
    intro x hx
    simp only [keysOf, List.mem_map, List.mem_range] at hx
    obtain ⟨i, hi, rfl⟩ := hx
    exact (hw i hi).2
  refine ⟨?_, ?_, ?_⟩
  · apply List.ext_getElem (by simp)
    intro i hi hi'
    simp only [bytesAt, keysOf, List.getElem_map, List.getElem_range, hd]
    exact h1 i _ (List.getElem?_eq_getElem hi') (hw i hi').2
  · intro k hk
    exact h2 k fun hin => hk (List.mem_of_mem_filter hin)
  · intro x
    rw [h3 x]
    constructor
    · rintro (h | h)
      · exact .inl h
      · exact .inr ⟨h.1, h.2.2⟩
    · rintro (h | h)
      · exact .inl h
      · exact .inr ⟨h.1, hram x h.1, h.2⟩

/-- The first byte that cannot be written decides how a range write stops (20_memory.md R116). -/
theorem State.writeBytes_of_stop {s : State} {seg : Byte} {off : Word} {bytes : List Byte} {e : Res State}
    (h : writeStops s seg off bytes.length = some e) : s.writeBytes seg off bytes = e := by
  induction bytes generalizing s off with
  | nil => simp [writeStops] at h
  | cons b bs ih =>
    rw [writeStops, List.length_cons, List.range_succ_eq_map, List.findSome?_cons] at h
    simp only [BitVec.add_zero] at h
    rw [State.writeBytes]
    split at h
    · rename_i e' he
      cases h
      rw [State.writeByte_of_stop b he]
      obtain rfl | rfl := writeStop_eq he <;> rfl
    · rename_i he
      obtain ⟨h1, h2⟩ := takes_of_no_stop he
      have hb := s.writeByte_of_takes seg off b fun i hi => by
        obtain rfl : i = 0 := by omega
        simpa using ⟨h1, h2⟩
      rw [hb, andThen_next]
      apply ih
      rw [List.findSome?_map] at h
      rw [writeStops]
      refine Eq.trans ?_ h
      congr 1
      funext i
      have e1 : off + BitVec.ofNat 16 (i + 1) = off + 1 + BitVec.ofNat 16 i := by rw [BitVec.ofNat_add]; ac_rfl
      simp only [Function.comp, Nat.succ_eq_add_one, e1]
      split <;> rfl

/-- Writable memory is readable. -/
theorem readable_of_writable {s : State} {seg : Byte} {off : Word} {k : Nat} (h : writable s seg off k) :
    readable s seg off k := by
  intro x hx
  simp only [keysOf, List.mem_map, List.mem_range] at hx
  obtain ⟨i, hi, rfl⟩ := hx
  simp [canRead, (h i hi).2]

end Sys2Proof.Machine
end

