-- ==== Sys2Proof/Laws/Flags.lean ====
section
/-! SUPPORT. Each bit of PSW after each bit of PSW was written, and PSW after each kind of result (10_state.md R48 to R57). -/
namespace Sys2Proof.Machine

theorem putBit_getLsbD (v : Byte) (i j : Nat) (b : Bool) (hj : j < 8) :
    (putBit v i b).getLsbD j = if j = i then b else v.getLsbD j := by
  cases b <;> simp [putBit, hj] <;> by_cases h : j = i <;> simp [h] <;> omega

theorem putElevel_getLsbD (p : Byte) (k : Level) (j : Nat) (hj : j < 8) :
    (putElevel p k).getLsbD j = if j < 2 then k.getLsbD j else p.getLsbD j := by
  rcases j with _ | _ | _ | _ | _ | _ | _ | _ | j
  all_goals first | omega | simp [putElevel]

theorem putBit_getElem (v : Byte) (i j : Nat) (b : Bool) (hj : j < 8) :
    (putBit v i b)[j] = if j = i then b else v[j] := by
  have h := putBit_getLsbD v i j b hj
  simpa [BitVec.getLsbD_eq_getElem hj] using h

theorem putElevel_getElem (p : Byte) (k : Level) (j : Nat) (hj : j < 8) :
    (putElevel p k)[j] = if j < 2 then k.getLsbD j else p[j] := by
  have h := putElevel_getLsbD p k j hj
  simpa [BitVec.getLsbD_eq_getElem hj] using h

/-- Two status words with the same fields are the same (R48). -/
theorem psw_ext (p q : Byte) (hc : flagC p = flagC q) (hz : flagZ p = flagZ q) (hs : flagS p = flagS q)
    (hov : flagOV p = flagOV q) (hmie : flagMIE p = flagMIE q) (hhc : flagHC p = flagHC q)
    (hel : elevelOf p = elevelOf q) : p = q := by
  apply BitVec.eq_of_getLsbD_eq
  intro i hi
  have h0 := congrArg (BitVec.getLsbD · 0) hel
  have h1 := congrArg (BitVec.getLsbD · 1) hel
  simp [elevelOf] at h0 h1
  rcases i with _ | _ | _ | _ | _ | _ | _ | _ | i
  all_goals first | omega | assumption

@[simp] theorem flagC_putC (p : Byte) (b : Bool) : flagC (putC p b) = b := by simp [flagC, putC, putBit_getElem]
@[simp] theorem flagZ_putC (p : Byte) (b : Bool) : flagZ (putC p b) = flagZ p := by simp [flagZ, putC, putBit_getElem]
@[simp] theorem flagS_putC (p : Byte) (b : Bool) : flagS (putC p b) = flagS p := by simp [flagS, putC, putBit_getElem]
@[simp] theorem flagOV_putC (p : Byte) (b : Bool) : flagOV (putC p b) = flagOV p := by simp [flagOV, putC, putBit_getElem]
@[simp] theorem flagMIE_putC (p : Byte) (b : Bool) : flagMIE (putC p b) = flagMIE p := by simp [flagMIE, putC, putBit_getElem]
@[simp] theorem flagHC_putC (p : Byte) (b : Bool) : flagHC (putC p b) = flagHC p := by simp [flagHC, putC, putBit_getElem]
@[simp] theorem elevelOf_putC (p : Byte) (b : Bool) : elevelOf (putC p b) = elevelOf p := by
  apply BitVec.eq_of_getLsbD_eq; intro i hi
  have : i = 0 ∨ i = 1 := by omega
  rcases this with rfl | rfl <;> simp [elevelOf, putC, putBit_getElem]

@[simp] theorem flagC_putZ (p : Byte) (b : Bool) : flagC (putZ p b) = flagC p := by simp [flagC, putZ, putBit_getElem]
@[simp] theorem flagZ_putZ (p : Byte) (b : Bool) : flagZ (putZ p b) = b := by simp [flagZ, putZ, putBit_getElem]
@[simp] theorem flagS_putZ (p : Byte) (b : Bool) : flagS (putZ p b) = flagS p := by simp [flagS, putZ, putBit_getElem]
@[simp] theorem flagOV_putZ (p : Byte) (b : Bool) : flagOV (putZ p b) = flagOV p := by simp [flagOV, putZ, putBit_getElem]
@[simp] theorem flagMIE_putZ (p : Byte) (b : Bool) : flagMIE (putZ p b) = flagMIE p := by simp [flagMIE, putZ, putBit_getElem]
@[simp] theorem flagHC_putZ (p : Byte) (b : Bool) : flagHC (putZ p b) = flagHC p := by simp [flagHC, putZ, putBit_getElem]
@[simp] theorem elevelOf_putZ (p : Byte) (b : Bool) : elevelOf (putZ p b) = elevelOf p := by
  apply BitVec.eq_of_getLsbD_eq; intro i hi
  have : i = 0 ∨ i = 1 := by omega
  rcases this with rfl | rfl <;> simp [elevelOf, putZ, putBit_getElem]

@[simp] theorem flagC_putS (p : Byte) (b : Bool) : flagC (putS p b) = flagC p := by simp [flagC, putS, putBit_getElem]
@[simp] theorem flagZ_putS (p : Byte) (b : Bool) : flagZ (putS p b) = flagZ p := by simp [flagZ, putS, putBit_getElem]
@[simp] theorem flagS_putS (p : Byte) (b : Bool) : flagS (putS p b) = b := by simp [flagS, putS, putBit_getElem]
@[simp] theorem flagOV_putS (p : Byte) (b : Bool) : flagOV (putS p b) = flagOV p := by simp [flagOV, putS, putBit_getElem]
@[simp] theorem flagMIE_putS (p : Byte) (b : Bool) : flagMIE (putS p b) = flagMIE p := by simp [flagMIE, putS, putBit_getElem]
@[simp] theorem flagHC_putS (p : Byte) (b : Bool) : flagHC (putS p b) = flagHC p := by simp [flagHC, putS, putBit_getElem]
@[simp] theorem elevelOf_putS (p : Byte) (b : Bool) : elevelOf (putS p b) = elevelOf p := by
  apply BitVec.eq_of_getLsbD_eq; intro i hi
  have : i = 0 ∨ i = 1 := by omega
  rcases this with rfl | rfl <;> simp [elevelOf, putS, putBit_getElem]

@[simp] theorem flagC_putOV (p : Byte) (b : Bool) : flagC (putOV p b) = flagC p := by simp [flagC, putOV, putBit_getElem]
@[simp] theorem flagZ_putOV (p : Byte) (b : Bool) : flagZ (putOV p b) = flagZ p := by simp [flagZ, putOV, putBit_getElem]
@[simp] theorem flagS_putOV (p : Byte) (b : Bool) : flagS (putOV p b) = flagS p := by simp [flagS, putOV, putBit_getElem]
@[simp] theorem flagOV_putOV (p : Byte) (b : Bool) : flagOV (putOV p b) = b := by simp [flagOV, putOV, putBit_getElem]
@[simp] theorem flagMIE_putOV (p : Byte) (b : Bool) : flagMIE (putOV p b) = flagMIE p := by simp [flagMIE, putOV, putBit_getElem]
@[simp] theorem flagHC_putOV (p : Byte) (b : Bool) : flagHC (putOV p b) = flagHC p := by simp [flagHC, putOV, putBit_getElem]
@[simp] theorem elevelOf_putOV (p : Byte) (b : Bool) : elevelOf (putOV p b) = elevelOf p := by
  apply BitVec.eq_of_getLsbD_eq; intro i hi
  have : i = 0 ∨ i = 1 := by omega
  rcases this with rfl | rfl <;> simp [elevelOf, putOV, putBit_getElem]

@[simp] theorem flagC_putMIE (p : Byte) (b : Bool) : flagC (putMIE p b) = flagC p := by simp [flagC, putMIE, putBit_getElem]
@[simp] theorem flagZ_putMIE (p : Byte) (b : Bool) : flagZ (putMIE p b) = flagZ p := by simp [flagZ, putMIE, putBit_getElem]
@[simp] theorem flagS_putMIE (p : Byte) (b : Bool) : flagS (putMIE p b) = flagS p := by simp [flagS, putMIE, putBit_getElem]
@[simp] theorem flagOV_putMIE (p : Byte) (b : Bool) : flagOV (putMIE p b) = flagOV p := by simp [flagOV, putMIE, putBit_getElem]
@[simp] theorem flagMIE_putMIE (p : Byte) (b : Bool) : flagMIE (putMIE p b) = b := by simp [flagMIE, putMIE, putBit_getElem]
@[simp] theorem flagHC_putMIE (p : Byte) (b : Bool) : flagHC (putMIE p b) = flagHC p := by simp [flagHC, putMIE, putBit_getElem]
@[simp] theorem elevelOf_putMIE (p : Byte) (b : Bool) : elevelOf (putMIE p b) = elevelOf p := by
  apply BitVec.eq_of_getLsbD_eq; intro i hi
  have : i = 0 ∨ i = 1 := by omega
  rcases this with rfl | rfl <;> simp [elevelOf, putMIE, putBit_getElem]

@[simp] theorem flagC_putHC (p : Byte) (b : Bool) : flagC (putHC p b) = flagC p := by simp [flagC, putHC, putBit_getElem]
@[simp] theorem flagZ_putHC (p : Byte) (b : Bool) : flagZ (putHC p b) = flagZ p := by simp [flagZ, putHC, putBit_getElem]
@[simp] theorem flagS_putHC (p : Byte) (b : Bool) : flagS (putHC p b) = flagS p := by simp [flagS, putHC, putBit_getElem]
@[simp] theorem flagOV_putHC (p : Byte) (b : Bool) : flagOV (putHC p b) = flagOV p := by simp [flagOV, putHC, putBit_getElem]
@[simp] theorem flagMIE_putHC (p : Byte) (b : Bool) : flagMIE (putHC p b) = flagMIE p := by simp [flagMIE, putHC, putBit_getElem]
@[simp] theorem flagHC_putHC (p : Byte) (b : Bool) : flagHC (putHC p b) = b := by simp [flagHC, putHC, putBit_getElem]
@[simp] theorem elevelOf_putHC (p : Byte) (b : Bool) : elevelOf (putHC p b) = elevelOf p := by
  apply BitVec.eq_of_getLsbD_eq; intro i hi
  have : i = 0 ∨ i = 1 := by omega
  rcases this with rfl | rfl <;> simp [elevelOf, putHC, putBit_getElem]

@[simp] theorem flagC_putElevel (p : Byte) (k : Level) : flagC (putElevel p k) = flagC p := by simp [flagC, putElevel_getElem]
@[simp] theorem flagZ_putElevel (p : Byte) (k : Level) : flagZ (putElevel p k) = flagZ p := by simp [flagZ, putElevel_getElem]
@[simp] theorem flagS_putElevel (p : Byte) (k : Level) : flagS (putElevel p k) = flagS p := by simp [flagS, putElevel_getElem]
@[simp] theorem flagOV_putElevel (p : Byte) (k : Level) : flagOV (putElevel p k) = flagOV p := by simp [flagOV, putElevel_getElem]
@[simp] theorem flagMIE_putElevel (p : Byte) (k : Level) : flagMIE (putElevel p k) = flagMIE p := by simp [flagMIE, putElevel_getElem]
@[simp] theorem flagHC_putElevel (p : Byte) (k : Level) : flagHC (putElevel p k) = flagHC p := by simp [flagHC, putElevel_getElem]
@[simp] theorem elevelOf_putElevel (p : Byte) (k : Level) : elevelOf (putElevel p k) = k := by
  apply BitVec.eq_of_getLsbD_eq; intro i hi
  have : i = 0 ∨ i = 1 := by omega
  rcases this with rfl | rfl <;> simp [elevelOf, putElevel_getElem]

@[simp] theorem flagC_putZSOVHC {w : Nat} (p : Byte) (x : Alu w) : flagC (putZSOVHC p x) = flagC p := by simp [putZSOVHC]
@[simp] theorem flagZ_putZSOVHC {w : Nat} (p : Byte) (x : Alu w) : flagZ (putZSOVHC p x) = x.z := by simp [putZSOVHC]
@[simp] theorem flagS_putZSOVHC {w : Nat} (p : Byte) (x : Alu w) : flagS (putZSOVHC p x) = x.s := by simp [putZSOVHC]
@[simp] theorem flagOV_putZSOVHC {w : Nat} (p : Byte) (x : Alu w) : flagOV (putZSOVHC p x) = x.ov := by simp [putZSOVHC]
@[simp] theorem flagMIE_putZSOVHC {w : Nat} (p : Byte) (x : Alu w) : flagMIE (putZSOVHC p x) = flagMIE p := by simp [putZSOVHC]
@[simp] theorem flagHC_putZSOVHC {w : Nat} (p : Byte) (x : Alu w) : flagHC (putZSOVHC p x) = x.hc := by simp [putZSOVHC]
@[simp] theorem elevelOf_putZSOVHC {w : Nat} (p : Byte) (x : Alu w) : elevelOf (putZSOVHC p x) = elevelOf p := by simp [putZSOVHC]

@[simp] theorem flagC_putArith {w : Nat} (p : Byte) (x : Alu w) : flagC (putArith p x) = x.c := by simp [putArith]
@[simp] theorem flagZ_putArith {w : Nat} (p : Byte) (x : Alu w) : flagZ (putArith p x) = x.z := by simp [putArith]
@[simp] theorem flagS_putArith {w : Nat} (p : Byte) (x : Alu w) : flagS (putArith p x) = x.s := by simp [putArith]
@[simp] theorem flagOV_putArith {w : Nat} (p : Byte) (x : Alu w) : flagOV (putArith p x) = x.ov := by simp [putArith]
@[simp] theorem flagMIE_putArith {w : Nat} (p : Byte) (x : Alu w) : flagMIE (putArith p x) = flagMIE p := by simp [putArith]
@[simp] theorem flagHC_putArith {w : Nat} (p : Byte) (x : Alu w) : flagHC (putArith p x) = x.hc := by simp [putArith]
@[simp] theorem elevelOf_putArith {w : Nat} (p : Byte) (x : Alu w) : elevelOf (putArith p x) = elevelOf p := by simp [putArith]

@[simp] theorem flagC_putArithSticky {w : Nat} (p : Byte) (x : Alu w) : flagC (putArithSticky p x) = x.c := by simp [putArithSticky]
@[simp] theorem flagZ_putArithSticky {w : Nat} (p : Byte) (x : Alu w) : flagZ (putArithSticky p x) = (flagZ p && x.z) := by simp [putArithSticky]
@[simp] theorem flagS_putArithSticky {w : Nat} (p : Byte) (x : Alu w) : flagS (putArithSticky p x) = x.s := by simp [putArithSticky]
@[simp] theorem flagOV_putArithSticky {w : Nat} (p : Byte) (x : Alu w) : flagOV (putArithSticky p x) = x.ov := by simp [putArithSticky]
@[simp] theorem flagMIE_putArithSticky {w : Nat} (p : Byte) (x : Alu w) : flagMIE (putArithSticky p x) = flagMIE p := by simp [putArithSticky]
@[simp] theorem flagHC_putArithSticky {w : Nat} (p : Byte) (x : Alu w) : flagHC (putArithSticky p x) = x.hc := by simp [putArithSticky]
@[simp] theorem elevelOf_putArithSticky {w : Nat} (p : Byte) (x : Alu w) : elevelOf (putArithSticky p x) = elevelOf p := by simp [putArithSticky]

@[simp] theorem flagC_putLogic {w : Nat} (p : Byte) (v : BitVec w) : flagC (putLogic p v) = flagC p := by simp [putLogic]
@[simp] theorem flagZ_putLogic {w : Nat} (p : Byte) (v : BitVec w) : flagZ (putLogic p v) = (v == 0) := by simp [putLogic]
@[simp] theorem flagS_putLogic {w : Nat} (p : Byte) (v : BitVec w) : flagS (putLogic p v) = v.msb := by simp [putLogic]
@[simp] theorem flagOV_putLogic {w : Nat} (p : Byte) (v : BitVec w) : flagOV (putLogic p v) = flagOV p := by simp [putLogic]
@[simp] theorem flagMIE_putLogic {w : Nat} (p : Byte) (v : BitVec w) : flagMIE (putLogic p v) = flagMIE p := by simp [putLogic]
@[simp] theorem flagHC_putLogic {w : Nat} (p : Byte) (v : BitVec w) : flagHC (putLogic p v) = flagHC p := by simp [putLogic]
@[simp] theorem elevelOf_putLogic {w : Nat} (p : Byte) (v : BitVec w) : elevelOf (putLogic p v) = elevelOf p := by simp [putLogic]

@[simp] theorem flagC_putLoad (p : Byte) (bs : List Byte) : flagC (putLoad p bs) = flagC p := by simp [putLoad]
@[simp] theorem flagZ_putLoad (p : Byte) (bs : List Byte) : flagZ (putLoad p bs) = bs.all (· == 0) := by simp [putLoad]
@[simp] theorem flagS_putLoad (p : Byte) (bs : List Byte) : flagS (putLoad p bs) = (bs.getLastD 0).msb := by simp [putLoad]
@[simp] theorem flagOV_putLoad (p : Byte) (bs : List Byte) : flagOV (putLoad p bs) = flagOV p := by simp [putLoad]
@[simp] theorem flagMIE_putLoad (p : Byte) (bs : List Byte) : flagMIE (putLoad p bs) = flagMIE p := by simp [putLoad]
@[simp] theorem flagHC_putLoad (p : Byte) (bs : List Byte) : flagHC (putLoad p bs) = flagHC p := by simp [putLoad]
@[simp] theorem elevelOf_putLoad (p : Byte) (bs : List Byte) : elevelOf (putLoad p bs) = elevelOf p := by simp [putLoad]

end Sys2Proof.Machine
end

