-- ==== Sys2Proof/Laws/Frames.lean ====
section
/-! SUPPORT. Frames: what each update of the state leaves of the special registers, of the general registers and of
memory, in the terms of Safety. -/
namespace Sys2Proof.Machine

@[simp] theorem State.setReg_special (s : State) (n : Reg) (v : Byte) : (s.setReg n v).special = s.special := rfl
@[simp] theorem State.setEr_special (s : State) (n : Reg) (v : Word) : (s.setEr n v).special = s.special := rfl
@[simp] theorem State.setPsw_special (s : State) (p : Byte) : (s.setPsw p).special = s.special := rfl
@[simp] theorem State.setSp_special (s : State) (v : Word) : (s.setSp v).special = { s.special with sp := v } := rfl
@[simp] theorem State.setEa_special (s : State) (v : Word) : (s.setEa v).special = { s.special with ea := v } := rfl
@[simp] theorem State.setDsr_special (s : State) (v : Byte) : (s.setDsr v).special = { s.special with dsr := v } := rfl
@[simp] theorem State.setLr_special (s : State) (v : Word) : (s.setLr v).special = { s.special with lr := v &&& 0xFFFE#16 } := rfl
@[simp] theorem State.latchAr_special (s : State) (v : Word) : (s.latchAr v).special = { s.special with ar := v } := rfl
@[simp] theorem State.drawn_special (s : State) (k : Nat) : (s.drawn k).special = { s.special with draws := s.draws + k } := rfl
@[simp] theorem State.setCsr_special (s : State) (v : CodeSeg) : (s.setCsr v).special = { s.special with csr := s.segWrite s.csr v } := rfl
@[simp] theorem State.setLcsr_special (s : State) (v : CodeSeg) : (s.setLcsr v).special = { s.special with lcsr := s.segWrite s.lcsr v } := rfl
@[simp] theorem State.setCreg_special (s : State) (n : Reg) (v : Byte) : (s.setCreg n v).special = { s.special with cr := (s.setCreg n v).cr } := rfl
@[simp] theorem State.storeByte_special (s : State) (k : Nat) (v : Byte) : (s.storeByte k v).special = { s.special with codeStores := (s.storeByte k v).codeStores } := rfl
@[simp] theorem State.settle_special (s : State) : s.settle.special = s.special := rfl
@[simp] theorem State.setPc_special (s : State) (v : Word) : (s.setPc v).special = s.special := rfl
@[simp] theorem State.finish_special (s : State) (v : Word) : (s.finish v).special = s.special := rfl
@[simp] theorem State.done_special (s : State) : s.done.special = s.special := rfl
@[simp] theorem State.done2_special (s : State) : s.done2.special = s.special := rfl

@[simp] theorem State.setRegs_special (s : State) (n : Reg) (bs : List Byte) : (s.setRegs n bs).special = s.special := by
  induction bs generalizing s n with
  | nil => rfl
  | cons b bs ih => rw [State.setRegs, ih]; rfl

/-! The backup registers -/

theorem level_cases (k : Level) : k = 0#2 ∨ k = 1#2 ∨ k = 2#2 ∨ k = 3#2 := by bv_omega

theorem State.setElr_special (s : State) (k : Level) (v : Word) :
    (s.setElr k v).special = s.special.withElr k (v &&& 0xFFFE#16) := by
  obtain rfl | rfl | rfl | rfl := level_cases k <;> rfl

theorem State.setEcsr_special (s : State) (k : Level) (v : CodeSeg) :
    (s.setEcsr k v).special = if s.isLarge then s.special.withEcsr k v else s.special := by
  obtain rfl | rfl | rfl | rfl := level_cases k <;> cases h : s.isLarge <;>
    simp [State.setEcsr, State.setLcsr, State.segWrite, h] <;> rfl

theorem State.setEpsw_special (s : State) (k : Level) (v : Byte) :
    (s.setEpsw k v).special = s.special.withEpsw k v := by
  obtain rfl | rfl | rfl | rfl := level_cases k <;> rfl

/-! The end of an instruction -/

@[simp] theorem State.done_eq (s : State) : s.done = s.finish s.nextPc := rfl
@[simp] theorem State.done2_eq (s : State) : s.done2 = s.finish s.nextPc2 := rfl
@[simp] theorem State.nextPc_eq (s : State) : s.nextPc = s.pc + 2 := rfl
@[simp] theorem State.nextPc2_eq (s : State) : s.nextPc2 = s.pc + 4 := rfl

theorem goesOn_finish (u : State) (off : Word) : goesOn (u.finish off) off := ⟨rfl, rfl, rfl, rfl⟩

/-- An instruction that left the windows alone ends as `continuesAt` says. -/
theorem continuesAt_finish {s u : State} {off : Word} (he : u.eiWindow = s.eiWindow) (hm : u.mieWindow = s.mieWindow) :
    continuesAt s (u.finish off) off := ⟨⟨rfl, rfl, rfl, rfl⟩, by simp [he], by simp [hm], rfl⟩

/-- The frame of an instruction that writes general registers and PSW only. -/
theorem onlyRegs_finish {s u : State} {off : Word} {ns : List Reg} (he : u.eiWindow = s.eiWindow)
    (hm : u.mieWindow = s.mieWindow) (hr : ∀ x, x ∉ ns → u.reg x = s.reg x) (hmem : u.mem = s.mem)
    (hsp : u.special = s.special) : onlyRegs s (u.finish off) off ns :=
  ⟨continuesAt_finish he hm, hr, fun k _ => by simp [hmem], hsp⟩

/-- The frame of an instruction that writes special registers only. -/
theorem onlySpecial_finish {s u : State} {off : Word} {x : Special} (he : u.eiWindow = s.eiWindow)
    (hm : u.mieWindow = s.mieWindow) (hr : ∀ n, u.reg n = s.reg n) (hmem : u.mem = s.mem) (hsp : u.special = x)
    (hp : u.psw = s.psw) : onlySpecial s (u.finish off) off x :=
  ⟨continuesAt_finish he hm, fun n _ => hr n, fun k _ => by simp [hmem], hsp, hp⟩

theorem sameRegsBut_refl (s : State) (ns : List Reg) : sameRegsBut s s ns := fun _ _ => rfl
theorem sameMemBut_refl (s : State) (ks : List Nat) : sameMemBut s s ks := fun _ _ => rfl

theorem mem_groupOf {n x : Reg} {k : Nat} (hk : k ≤ 16) : x ∈ groupOf n k ↔ (x - n).toNat < k := by
  simp only [groupOf, List.mem_map, List.mem_range]
  constructor
  · rintro ⟨i, hi, rfl⟩
    have : (n + BitVec.ofNat 4 i - n).toNat = i := by
      rw [show n + BitVec.ofNat 4 i - n = BitVec.ofNat 4 i by bv_omega]
      simp; omega
    omega
  · intro h
    exact ⟨(x - n).toNat, h, by rw [BitVec.ofNat_toNat, BitVec.setWidth_eq]; bv_omega⟩

/-- A register outside a group is not touched when the group is written. -/
theorem State.setRegs_frame (s : State) (n : Reg) (bs : List Byte) (h : bs.length ≤ 16) (x : Reg)
    (hx : x ∉ groupOf n bs.length) : (s.setRegs n bs).reg x = s.reg x := by
  rw [State.reg_setRegs _ _ _ _ h, List.getElem?_eq_none]
  · rfl
  · rw [mem_groupOf h] at hx; omega

theorem State.setCregs_frame (s : State) (n : Reg) (bs : List Byte) (h : bs.length ≤ 16) (x : Reg)
    (hx : x ∉ groupOf n bs.length) : (s.setCregs n bs).creg x = s.creg x := by
  rw [State.creg_setCregs _ _ _ _ h, List.getElem?_eq_none]
  · rfl
  · rw [mem_groupOf h] at hx; omega

/-! Results -/

theorem writeArith_frame (s : State) (n : Reg) (x : Alu 8) (off : Word) :
    onlyRegs s ((s.writeArith n x).finish off) off [n] :=
  onlyRegs_finish rfl rfl (fun y hy => by simp_all [State.writeArith]) rfl rfl

theorem writeSticky_frame (s : State) (n : Reg) (x : Alu 8) (off : Word) :
    onlyRegs s ((s.writeSticky n x).finish off) off [n] :=
  onlyRegs_finish rfl rfl (fun y hy => by simp_all [State.writeSticky]) rfl rfl

theorem writeLogic_frame (s : State) (n : Reg) (v : Byte) (off : Word) :
    onlyRegs s ((s.writeLogic n v).finish off) off [n] :=
  onlyRegs_finish rfl rfl (fun y hy => by simp_all [State.writeLogic]) rfl rfl

theorem writeArithEr_frame (s : State) (n : Reg) (x : Alu 16) (off : Word) :
    onlyRegs s ((s.writeArithEr n x).finish off) off [n, n + 1] :=
  onlyRegs_finish rfl rfl (fun y hy => by simp_all [State.writeArithEr]) rfl rfl

theorem writeLogicEr_frame (s : State) (n : Reg) (v : Word) (off : Word) :
    onlyRegs s ((s.writeLogicEr n v).finish off) off [n, n + 1] :=
  onlyRegs_finish rfl rfl (fun y hy => by simp_all [State.writeLogicEr]) rfl rfl

end Sys2Proof.Machine
end

