-- ==== Sys2Proof/Laws/Transfer.lean ====
section
/-! SUPPORT. The transfers between registers and data memory, said once for each: where memory is present they answer,
and what they change. -/
namespace Sys2Proof.Machine

/-- A load where memory is present (42_load_store.md R300, R301). -/
theorem State.loadRegs_of_canLoad (s : State) (off : Word) (n : Reg) (k : Nat) (h : canLoad s off k) :
    s.loadRegs off n k =
      .next (((s.latchAr off).setRegs n (bytesAt s s.dseg (alignOff k off) k)).setPsw
        (putLoad s.psw (bytesAt s s.dseg (alignOff k off) k))) := by
  rw [State.loadRegs, State.readMem, State.readBytes_of_readable _ _ _ _ h, andThen_next]

/-- What a load can answer: the offset latched, some `k` bytes in the registers, Z and S of them. -/
theorem State.loadRegs_eq_next {s t : State} {off : Word} {n : Reg} {k : Nat} (h : s.loadRegs off n k = .next t) :
    ∃ bs d, bs.length = k ∧
      t = ((({ s with draws := d } : State).latchAr off).setRegs n bs).setPsw (putLoad s.psw bs) := by
  obtain ⟨p, hp, h⟩ := andThen_eq_next h
  cases h
  obtain ⟨h1, h2⟩ := State.readBytes_eq_next hp
  refine ⟨p.1, p.2.draws, h2, ?_⟩
  rw [h1]

/-- Where MEMMAP has nothing at some byte a load stops (20_memory.md R114). -/
theorem State.loadRegs_of_absent (s : State) (off : Word) (n : Reg) (k : Nat)
    (h : someAbsent s s.dseg (alignOff k off) k) : s.loadRegs off n k = .fault .readAbsent := by
  rw [State.loadRegs, State.readMem, State.readBytes_of_absent _ _ _ _ h]; rfl

/-- The state after a load, as Safety says it. -/
theorem loaded_finish (s : State) (next off : Word) (n : Reg) (k : Nat) (ea : Word) (hk : k ≤ 16) :
    loaded s
      (((((s.latchAr off).setRegs n (bytesAt s s.dseg (alignOff k off) k)).setPsw
        (putLoad s.psw (bytesAt s s.dseg (alignOff k off) k))).setEa ea).finish next) next off n k ea := by
  refine ⟨?_, ?_, continuesAt_finish (by simp) (by simp), ?_, ?_, ?_⟩
  · have h := State.regs_setRegs (s.latchAr off) n (bytesAt s s.dseg (alignOff k off) k) (by simpa using hk)
    simpa [State.regs] using h
  · refine ⟨by simp, ?_, by simp, by simp, by simp, by simp, by simp⟩
    rw [Bool.eq_iff_iff]
    simp
  · intro x hx
    have := State.setRegs_frame (s.latchAr off) n (bytesAt s s.dseg (alignOff k off) k) (by simpa using hk) x
      (by simpa using hx)
    simpa using this
  · intro x _; simp
  · simp

/-- A load where memory or devices answer: there is a memory, that of `s` but for the bytes of devices, from which it
loads (00_scope.md R7, log 8). -/
theorem State.loadRegs_of_answered (s : State) (off : Word) (n : Reg) (k : Nat) (hm : s.mem.wf) (hk : k ≤ 65536)
    (h : answered s s.dseg (alignOff k off) k) :
    ∃ m, seenMemory s m ∧
      s.loadRegs off n k =
        .next ((((s.drawn (deviceCount s (keysOf s.dev s.dseg (alignOff k off) k))).latchAr off).setRegs n
          (bytesAt { s with mem := m } s.dseg (alignOff k off) k)).setPsw
            (putLoad s.psw (bytesAt { s with mem := m } s.dseg (alignOff k off) k))) := by
  obtain ⟨bs, h1, h2, h3⟩ := s.readBytes_of_answered s.dseg (alignOff k off) k h
  obtain ⟨m, m1, m2⟩ := seenMemory_of_bytes s s.dseg (alignOff k off) bs hm (by omega) h3
  rw [h2] at m2
  refine ⟨m, m1, ?_⟩
  rw [State.loadRegs, State.readMem, h1, andThen_next, m2]

/-- A store where memory or devices take the bytes: only AR, memory and the store record change (20_memory.md R116,
R148). -/
theorem State.writeMem_of_takes (s : State) (seg : Byte) (off : Word) (bytes : List Byte) (hm : s.mem.wf)
    (hk : bytes.length ≤ 65536) (h : takes s seg (alignOff bytes.length off) bytes.length) :
    ∃ t, s.writeMem seg off bytes = .next t ∧ t = { s with ar := off, mem := t.mem, codeStores := t.codeStores } ∧
      takenAt s t seg (alignOff bytes.length off) bytes ∧ t.mem.wf := by
  obtain ⟨t, ht⟩ := State.writeBytes_of_takes (s.latchAr off) seg (alignOff bytes.length off) bytes h
  obtain ⟨h1, -, h3, -, -⟩ := State.writeBytes_eq_next ht
  exact ⟨t, ht, h1, State.writeBytes_taken (s := s.latchAr off) ht hm hk, h3 hm⟩

/-- A store where memory is present: only AR, memory and the store record change (20_memory.md R116, R148). -/
theorem State.writeMem_of_writable (s : State) (seg : Byte) (off : Word) (bytes : List Byte) (hm : s.mem.wf)
    (hk : bytes.length ≤ 65536) (h : writable s seg (alignOff bytes.length off) bytes.length) :
    ∃ t, s.writeMem seg off bytes = .next t ∧ t = { s with ar := off, mem := t.mem, codeStores := t.codeStores } ∧
      storedAt s t seg (alignOff bytes.length off) bytes ∧ t.mem.wf := by
  obtain ⟨t, ht, h1, h2, h3⟩ := s.writeMem_of_takes seg off bytes hm hk (takes_of_writable h)
  exact ⟨t, ht, h1, storedAt_of_takenAt (by rw [h1]) h h2, h3⟩

/-- What a store can answer. -/
theorem State.writeMem_eq_next {s t : State} {seg : Byte} {off : Word} {bytes : List Byte}
    (h : s.writeMem seg off bytes = .next t) :
    t = { s with ar := off, mem := t.mem, codeStores := t.codeStores } ∧
      sameMemBut s t ((keysOf s.dev seg (alignOff bytes.length off) bytes.length).filter fun x =>
        kindAt s.dev x == some .ram) ∧
      (s.mem.wf → t.mem.wf) ∧ (s.codeStores.wf → t.codeStores.wf) ∧
      ∀ x, x ∈ t.codeStores ↔
        x ∈ s.codeStores ∨
          (x ∈ keysOf s.dev seg (alignOff bytes.length off) bytes.length ∧ kindAt s.dev x = some .ram ∧
            isSharedKey x = true) :=
  State.writeBytes_eq_next h

/-- The first byte that cannot be written decides how a store stops (20_memory.md R116). -/
theorem State.writeMem_of_stop {s : State} {seg : Byte} {off : Word} {bytes : List Byte} {e : Res State}
    (h : writeStops s seg (alignOff bytes.length off) bytes.length = some e) : s.writeMem seg off bytes = e :=
  State.writeBytes_of_stop (s := s.latchAr off) h

/-- The state after a store, as Safety says it. -/
theorem stored_finish {s t : State} {next off : Word} {bytes : List Byte} (ea : Word)
    (ht : t = { s with ar := off, mem := t.mem, codeStores := t.codeStores })
    (h : storedAt s t s.dseg (alignOff bytes.length off) bytes) :
    stored s ((t.setEa ea).finish next) next off bytes ea := by
  refine ⟨?_, by rw [ht]; rfl, continuesAt_finish (by rw [ht]; rfl) (by rw [ht]; rfl), ?_, ?_⟩
  · exact h
  · intro x _; rw [ht]; rfl
  · rw [ht]; rfl

/-- The state after a store that devices share, as Safety says it. -/
theorem taken_finish {s t : State} {next off : Word} {bytes : List Byte} (ea : Word)
    (ht : t = { s with ar := off, mem := t.mem, codeStores := t.codeStores })
    (h : takenAt s t s.dseg (alignOff bytes.length off) bytes) :
    taken s ((t.setEa ea).finish next) next off bytes ea := by
  refine ⟨h, by rw [ht]; rfl, continuesAt_finish (by rw [ht]; rfl) (by rw [ht]; rfl), ?_, ?_⟩
  · intro x _; rw [ht]; rfl
  · rw [ht]; rfl

/-- A load of coprocessor registers where a coprocessor is fitted and memory is present (45_coprocessor.md R371). -/
theorem State.loadCregs_of_canLoad (s : State) (n : Reg) (k : Nat) (hc : s.dev.coprocessor ≠ .absent)
    (h : canLoad s s.ea k) :
    s.loadCregs n k = .next ((s.latchAr s.ea).setCregs n (bytesAt s s.dseg (alignOff k s.ea) k)) := by
  have hn : s.needCoprocessor = .next s := if_neg hc
  rw [State.loadCregs, hn, andThen_next, State.readMem, State.offEa, State.readBytes_of_readable _ _ _ _ h, andThen_next]

/-- The bytes a coprocessor store reads, where the coprocessor is storage. -/
theorem State.cregs_of_storage (s : State) (n : Reg) (k : Nat) (h : s.dev.coprocessor = .storage) :
    s.cregs n k = cregsOf s n k := by
  simp [State.cregs, cregsOf, h]

end Sys2Proof.Machine
end

