-- ==== Sys2Proof/Laws/Entry.lean ====
section
/-! SUPPORT. Fetching from code memory, interrupt entry, return from interrupt and the reset sequence, said once for
each: when they answer, and what they change. -/
namespace Sys2Proof.Machine

theorem andThen_eq_of {α β : Type} {x : Res α} {a : α} (h : x = .next a) (f : α → Res β) : andThen x f = f a := by
  rw [h]; rfl

/-- A code byte that is present and not overwritten is fetched (20_memory.md R108, R148). -/
theorem State.codeByte_of_present {s : State} {c : CodeSeg} {off : Word}
    (h : canFetch s.dev (codeKey c off) = true ∧ s.codeStores.contains (codeKey c off) = false) :
    s.codeByte c off = .next (s.mem.read (codeKey c off)) := by
  rw [State.codeByte, h.1, h.2]; rfl

/-- What a code byte can be. -/
theorem State.codeByte_eq_next {s : State} {c : CodeSeg} {off : Word} {b : Byte} (h : s.codeByte c off = .next b) :
    b = s.mem.read (codeKey c off) ∧ canFetch s.dev (codeKey c off) = true ∧
      s.codeStores.contains (codeKey c off) = false := by
  unfold State.codeByte at h
  split at h
  · split at h
    · simp at h
    · simp at h; rename_i h1 h2; exact ⟨h.symm, h1, by simpa using h2⟩
  · simp at h

theorem fetchable_byte {s : State} {c : CodeSeg} {off : Word} {k : Nat} (h : fetchable s c off k) {i : Nat} (hi : i < k) :
    canFetch s.dev (codeKey c (off + BitVec.ofNat 16 i)) = true ∧
      s.codeStores.contains (codeKey c (off + BitVec.ofNat 16 i)) = false := by
  apply h
  simp only [codeKeysOf, List.mem_map, List.mem_range]
  exact ⟨i, hi, rfl⟩

/-- A code word is fetched where its two bytes can be (20_memory.md R107, R108). -/
theorem State.codeRead16_of_fetchable {s : State} {c : CodeSeg} {off : Word}
    (h : fetchable s c (off &&& 0xFFFE#16) 2) : s.codeRead16 c off = .next (codeWordAt s c (off &&& 0xFFFE#16)) := by
  have h0 := fetchable_byte h (i := 0) (by omega)
  have h1 := fetchable_byte h (i := 1) (by omega)
  simp only [BitVec.add_zero] at h0
  exact (andThen_eq_of (State.codeByte_of_present h0) _).trans (andThen_eq_of (State.codeByte_of_present h1) _)

/-- What a code word can be. -/
theorem State.codeRead16_eq_next {s : State} {c : CodeSeg} {off w : Word} (h : s.codeRead16 c off = .next w) :
    w = codeWordAt s c (off &&& 0xFFFE#16) := by
  obtain ⟨lo, h1, h⟩ := andThen_eq_next h
  obtain ⟨hi, h2, h⟩ := andThen_eq_next h
  rw [(State.codeByte_eq_next h1).1, (State.codeByte_eq_next h2).1] at h
  exact (Host.Outcome.next.inj h).symm

/-- What stops a code byte. -/
theorem State.codeByte_of_stop {s : State} {c : CodeSeg} {off : Word} {e : Res State}
    (h : fetchStop s (codeKey c off) = some e) {f : Byte → Res State} : andThen (s.codeByte c off) f = e := by
  unfold fetchStop at h
  rw [State.codeByte]
  split at h
  · rename_i hc; rw [hc]; exact Option.some.inj h
  · rename_i hc
    rw [if_pos (by simpa using hc)]
    split at h
    · rename_i hs
      rw [if_pos (by simpa using hs)]; exact Option.some.inj h
    · simp at h

/-- A code byte that nothing stops can be fetched. -/
theorem present_of_no_stop {s : State} {k : Nat} (h : fetchStop s k = none) :
    canFetch s.dev k = true ∧ s.codeStores.contains k = false := by
  unfold fetchStop at h
  split at h
  · simp at h
  · split at h
    · simp at h
    · rename_i h1 h2
      exact ⟨by simpa using h1, by simpa using h2⟩

theorem fetchStops_two (s : State) (c : CodeSeg) (off : Word) :
    fetchStops s c off 2 = (fetchStop s (codeKey c off)).or (fetchStop s (codeKey c (off + 1))) := by
  have e : codeKeysOf c off 2 = [codeKey c off, codeKey c (off + 1)] := by simp [codeKeysOf, List.range_succ]
  rw [fetchStops, e]
  simp only [List.findSome?_cons, List.findSome?_nil]
  cases fetchStop s (codeKey c off) <;> cases fetchStop s (codeKey c (off + 1)) <;> rfl

/-- The first byte of a code word that cannot be fetched decides how its fetch stops (20_memory.md R108, R148). -/
theorem State.codeRead16_of_stop {s : State} {c : CodeSeg} {off : Word} {e : Res State}
    (h : fetchStops s c (off &&& 0xFFFE#16) 2 = some e) {f : Word → Res State} : andThen (s.codeRead16 c off) f = e := by
  rw [fetchStops_two] at h
  rw [State.codeRead16, andThen_assoc]
  cases h0 : fetchStop s (codeKey c (off &&& 0xFFFE#16)) with
  | some e' =>
    rw [h0] at h
    rw [State.codeByte_of_stop h0]; exact Option.some.inj h
  | none =>
    rw [h0, Option.none_or] at h
    rw [State.codeByte_of_present (present_of_no_stop h0), andThen_next, andThen_assoc]
    exact State.codeByte_of_stop h

/-- A vector address of a maskable source is even. -/
theorem miVector_even : ∀ i : MiSource, miVector i &&& 0xFFFE#16 = miVector i := by decide

/-- The special registers of an entry to level `k` (60_exceptions.md R510). -/
theorem enter_special (s : State) (k : Level) (ret : Word) (saved : Byte) (hk : k ≠ 0) :
    ((((s.setElr k ret).setEcsr k (s.segRead s.csr)).setEpsw k saved).setCsr 0).special =
      (((if s.isLarge then { s.special.withEcsr k s.csr with csr := 0 } else s.special).withElr k
        (ret &&& 0xFFFE#16)).withEpsw k saved) := by
  obtain rfl | rfl | rfl | rfl := level_cases k <;> first
    | exact absurd rfl hk
    | (cases hl : s.isLarge <;>
        simp [State.special, State.setCsr, State.setElr, State.setEcsr, State.setEpsw, State.segWrite, State.segRead,
          Special.withElr, Special.withEcsr, Special.withEpsw, State.isLarge] <;>
        simp [State.isLarge] at hl <;> simp [hl])

/-- An entry where the registers of the level are present and the vector can be fetched (60_exceptions.md R510). -/
theorem State.enter_of_fetchable {s : State} {k : Level} {vec ret : Word} {cl : Bool} {saved : Byte} (hk : k ≠ 0)
    (hp : s.levelPresent k = true) (hf : fetchable s 0 (vec &&& 0xFFFE#16) 2) :
    ∃ t, s.enter k vec ret cl saved = .next t ∧
      entered s t k vec ret (if cl then false else flagMIE s.psw) saved := by
  refine ⟨_, by rw [State.enter, if_pos hp, State.codeRead16_of_fetchable hf, andThen_next], ?_⟩
  refine ⟨rfl, ?_, enter_special s k ret saved hk, fun x _ => ?_, fun x _ => ?_, rfl, rfl, rfl, rfl, ?_, ?_⟩
  · cases cl <;> refine ⟨?_, ?_, ?_, ?_, ?_, ?_, ?_⟩ <;> simp
  · have h1 := State.setElr_reg s k ret x
    have h2 := State.setEcsr_reg (s.setElr k ret) k (s.segRead s.csr) x
    have h3 := State.setEpsw_reg ((s.setElr k ret).setEcsr k (s.segRead s.csr)) k saved x
    exact h3.trans (h2.trans h1)
  all_goals simp

/-- The reset sequence where its two vectors can be fetched (70_reset_and_hazards.md R560). -/
theorem State.resetSequence_of_fetchable {s : State} (h : fetchable s 0 0x0000#16 4) :
    ∃ t, s.resetSequence = .next t ∧ wasReset s t ∧ t.resetIn = s.resetIn := by
  have f0 : fetchable s 0 (0x0000#16 &&& 0xFFFE#16) 2 := by
    intro x hx
    apply h
    simp [codeKeysOf, List.range_succ] at *
    tauto
  have f1 : fetchable s 0 (0x0002#16 &&& 0xFFFE#16) 2 := by
    intro x hx
    apply h
    simp [codeKeysOf, List.range_succ] at *
    tauto
  exact ⟨_, (andThen_eq_of (State.codeRead16_of_fetchable f0) _).trans
    (andThen_eq_of (State.codeRead16_of_fetchable f1) _),
    ⟨rfl, rfl, rfl, rfl, rfl, rfl, rfl, rfl, fun _ _ => rfl, rfl, rfl⟩, rfl⟩

end Sys2Proof.Machine
end

