-- ==== Sys2Proof/Laws/Stack.lean ====
section
/-! SUPPORT. The stack operations, said once for each: pushes of a frame, and pops at a distance above SP
(44_push_pop.md R349 to R353). -/
namespace Sys2Proof.Machine

/-! Pushes -/

/-- Pushes of the listed bytes, first one first; `none` is a free byte. -/
def pushItems : List (Option Byte) → State → Res State
  | [], s => .next s
  | some b :: xs, s => andThen (s.push8 b) (pushItems xs)
  | none :: xs, s => andThen s.pushFree (pushItems xs)

/-- `t` is `s` but for what a push changes: SP, AR, memory, the store record and the count of draws. -/
def pushSame (s t : State) : Prop :=
  t = { s with sp := t.sp, ar := t.ar, mem := t.mem, codeStores := t.codeStores, draws := t.draws }

theorem pushSame_refl (s : State) : pushSame s s := rfl

theorem pushSame_trans {s t u : State} (h1 : pushSame s t) (h2 : pushSame t u) : pushSame s u := by
  unfold pushSame at *
  rw [h1] at h2
  exact h2

theorem pushAll_eq_pushItems (s : State) (bs : List Byte) : s.pushAll bs = pushItems (bs.map some) s := by
  induction bs generalizing s with
  | nil => rfl
  | cons b bs ih => rw [State.pushAll, List.map_cons, pushItems]; congr 1; funext s1; exact ih s1

theorem pushItems_append (xs ys : List (Option Byte)) (s : State) :
    pushItems (xs ++ ys) s = andThen (pushItems xs s) (pushItems ys) := by
  induction xs generalizing s with
  | nil => rfl
  | cons x xs ih =>
    cases x <;> simp only [List.cons_append, pushItems, andThen_assoc] <;> congr 1 <;> funext s1 <;> exact ih s1

theorem push8_same {s t : State} {v : Byte} (h : s.push8 v = .next t) : pushSame s t := by
  have h1 := (State.writeMem_eq_next h).1
  rw [h1]; rfl

theorem pushFree_same {s t : State} (h : s.pushFree = .next t) : pushSame s t := by
  have h1 := (State.writeMem_eq_next h).1
  rw [h1]; rfl

/-- What a push of a frame can change. -/
theorem pushItems_same {xs : List (Option Byte)} {s t : State} (h : pushItems xs s = .next t) : pushSame s t := by
  induction xs generalizing s with
  | nil => cases h; rfl
  | cons x xs ih =>
    cases x with
    | none => obtain ⟨s1, h1, h2⟩ := andThen_eq_next h; exact pushSame_trans (pushFree_same h1) (ih h2)
    | some b => obtain ⟨s1, h1, h2⟩ := andThen_eq_next h; exact pushSame_trans (push8_same h1) (ih h2)

/-- A stack address outside the ROM window is no address that code shares. -/
theorem stackKey_not_shared (d : Device) (off : Word) (h : inRomWindow d 0 off = false) :
    isSharedKey (dataKey d 0 off) = false := by
  have := off.isLt
  simp only [dataKey, h, isSharedKey]
  simp; omega

/-- The memory after a byte is pushed to, or taken at, the stack address `off`. -/
def stackWrite (s : State) (off : Word) (v : Byte) : Memory :=
  if kindAt s.dev (dataKey s.dev 0 off) = some .ram then s.mem.write (dataKey s.dev 0 off) v else s.mem

theorem stackWrite_wf (s : State) (off : Word) (v : Byte) (hm : s.mem.wf) : (stackWrite s off v).wf := by
  unfold stackWrite
  split
  · exact Memory.wf_write _ _ _ hm
  · exact hm

/-- One push where memory or a device takes the byte. -/
theorem push8_of_takes (s : State) (v : Byte) (h : takes s 0 (s.sp - 1) 1) :
    s.push8 v = .next { s with sp := s.sp - 1, ar := s.sp - 1, mem := stackWrite s (s.sp - 1) v } := by
  have hk := stackKey_not_shared s.dev (s.sp - 1) (by simpa using (h 0 (by omega)).1)
  have hb := ((s.setSp (s.sp - 1)).latchAr (s.sp - 1)).writeByte_of_takes 0 (s.sp - 1) v h
  refine (congrArg (fun x => andThen x Host.Outcome.next) hb).trans ?_
  rw [andThen_next]
  simp only [stackWrite, State.storeByte]
  have hd : ((s.setSp (s.sp - 1)).latchAr (s.sp - 1)).dev = s.dev := rfl
  rw [hd, hk]
  split <;> rfl

/-- Where one push stops. -/
theorem push8_of_stop {s : State} {e : Res State} (v : Byte) (h : writeStop s 0 (s.sp - 1) = some e) :
    s.push8 v = e :=
  State.writeMem_of_stop (s := s.setSp (s.sp - 1)) (bytes := [v]) (by
    have h' : writeStop (s.setSp (s.sp - 1)) 0 (s.sp - 1) = some e := h
    simpa [writeStops, List.range_succ, alignOff] using h')

/-- Pushes of a frame where memory or devices take its bytes: SP and AR move down by its size, its bytes lie in the
writable memory there with the last one pushed lowest, one value is drawn for each free byte, nothing else changes
(44_push_pop.md R351, R353). -/
theorem pushItems_of_takes (xs : List (Option Byte)) (s : State) (hm : s.mem.wf) (hk : xs.length ≤ 65536)
    (h : takes s 0 (s.sp - BitVec.ofNat 16 xs.length) xs.length) :
    ∃ t, pushItems xs s = .next t ∧
      t = { s with
            sp := s.sp - BitVec.ofNat 16 xs.length
            ar := if xs = [] then s.ar else s.sp - BitVec.ofNat 16 xs.length
            mem := t.mem
            draws := s.draws + xs.countP (·.isNone) } ∧
      (∀ i b, xs.reverse[i]? = some (some b) →
        kindAt s.dev (dataKey s.dev 0 (t.sp + BitVec.ofNat 16 i)) = some .ram → stackByte t i = b) ∧
      sameMemBut s t ((keysOf s.dev 0 (s.sp - BitVec.ofNat 16 xs.length) xs.length).filter fun x =>
        kindAt s.dev x == some .ram) ∧ t.mem.wf := by
  induction xs generalizing s with
  | nil => exact ⟨s, rfl, by simp, by simp, fun _ _ => rfl, hm⟩
  | cons x xs ih =>
    simp only [List.length_cons] at hk h
    have hlast := h xs.length (by omega)
    have hsp : s.sp - BitVec.ofNat 16 (xs.length + 1) + BitVec.ofNat 16 xs.length = s.sp - 1 := by
      rw [BitVec.ofNat_add]; bv_omega
    have hsp' : s.sp - 1 - BitVec.ofNat 16 xs.length = s.sp - BitVec.ofNat 16 (xs.length + 1) := by
      rw [BitVec.ofNat_add]; bv_omega
    rw [hsp] at hlast
    have hw1 : takes s 0 (s.sp - 1) 1 := by
      intro i hi
      obtain rfl : i = 0 := by omega
      simpa using hlast
    -- the first push, whatever is pushed
    have hpush : ∃ v d, (∀ b, x = some b → v = b) ∧ (d = s.draws + if x.isNone then 1 else 0) ∧
        pushItems (x :: xs) s = pushItems xs
          { s with sp := s.sp - 1, ar := s.sp - 1, mem := stackWrite s (s.sp - 1) v, draws := d } := by
      cases x with
      | none =>
        refine ⟨Config.freeByte s.draws, s.draws + 1, by simp, by simp, ?_⟩
        rw [pushItems, State.pushFree, push8_of_takes (s.drawn 1) _ hw1]; rfl
      | some b =>
        refine ⟨b, s.draws, by simp, by simp, ?_⟩
        rw [pushItems, push8_of_takes s b hw1]; rfl
    obtain ⟨v, d, hv, hd, hp⟩ := hpush
    rw [hp]
    obtain ⟨t, ht, h1, h2, h3, h4⟩ := ih
      { s with sp := s.sp - 1, ar := s.sp - 1, mem := stackWrite s (s.sp - 1) v, draws := d }
      (stackWrite_wf _ _ _ hm) (by omega) (by
        intro i hi
        have := h i (by omega)
        simp only [hsp']
        exact this)
    simp only [hsp'] at h1 h3
    have htsp : t.sp = s.sp - BitVec.ofNat 16 (xs.length + 1) := by rw [h1]
    refine ⟨t, ht, ?_, ?_, ?_, h4⟩
    · rw [h1]
      simp only [List.length_cons, reduceCtorEq, if_false, State.mk.injEq, true_and, and_true, hd]
      refine ⟨?_, ?_⟩
      · split
        · subst_vars; simp
        · rfl
      · cases x <;> simp; omega
    · intro i b hi hr
      rw [List.reverse_cons] at hi
      by_cases hlt : i < xs.length
      · rw [List.getElem?_append_left (by simpa using hlt)] at hi
        exact h2 i b hi hr
      · have hi' : i = xs.length := by
          rw [List.getElem?_append_right (by simpa using hlt)] at hi
          have := (List.getElem?_eq_some_iff.1 hi).1
          simp at this
          omega
        subst hi'
        rw [List.getElem?_append_right (by simp)] at hi
        simp at hi
        obtain rfl := hv b hi
        rw [htsp, hsp] at hr
        have hkey : stackByte t xs.length = t.mem.read (dataKey s.dev 0 (s.sp - 1)) := by
          rw [stackByte, h1]; simp only [hsp]
        rw [hkey, h3]
        · rw [stackWrite, if_pos hr]
          exact Memory.read_write_self _ _ _ hm
        · intro hin
          have hin := List.mem_of_mem_filter hin
          simp only [keysOf, List.mem_map, List.mem_range] at hin
          obtain ⟨j, hj, he⟩ := hin
          have e : (s.sp - BitVec.ofNat 16 (xs.length + 1) + BitVec.ofNat 16 j).toNat =
              (s.sp - BitVec.ofNat 16 (xs.length + 1) + BitVec.ofNat 16 xs.length).toNat := by
            rw [dataKey_inj he, hsp]
          simp only [BitVec.toNat_add, BitVec.toNat_ofNat] at e
          omega
    · intro y hy
      have hsub : ∀ z ∈ keysOf s.dev 0 (s.sp - BitVec.ofNat 16 (xs.length + 1)) xs.length,
          z ∈ keysOf s.dev 0 (s.sp - BitVec.ofNat 16 (xs.length + 1)) (xs.length + 1) := by
        intro z hz
        simp only [keysOf, List.mem_map, List.mem_range] at hz ⊢
        obtain ⟨j, hj, he⟩ := hz
        exact ⟨j, by omega, he⟩
      rw [List.length_cons] at hy
      rw [h3 y fun hc => hy (List.mem_filter.2 ⟨hsub y (List.mem_filter.1 hc).1, (List.mem_filter.1 hc).2⟩)]
      show Memory.read (stackWrite s (s.sp - 1) v) y = _
      rw [stackWrite]
      split
      · rename_i hr
        apply Memory.read_write_ne
        rintro rfl
        apply hy
        refine List.mem_filter.2 ⟨?_, beq_iff_eq.2 hr⟩
        simp only [keysOf, List.mem_map, List.mem_range]
        exact ⟨xs.length, by omega, by rw [hsp]⟩
      · rfl

/-- The first byte, from the top downwards, that cannot be written decides how the pushes of a frame stop (44_push_pop.md
R351, 20_memory.md R116). -/
theorem pushItems_of_stop {xs : List (Option Byte)} {s : State} {e : Res State}
    (h : pushStops s xs.length = some e) : pushItems xs s = e := by
  induction xs generalizing s with
  | nil => simp [pushStops] at h
  | cons x xs ih =>
    rw [pushStops, List.length_cons, List.range_succ_eq_map, List.findSome?_cons] at h
    have hfirst : ∀ (r : Res State), (∀ f : State → Res State, andThen r f = r) → r = e →
        writeStop s 0 (s.sp - 1) = some r → pushItems (x :: xs) s = e := by
      rintro r hr rfl hw
      cases x with
      | none => rw [pushItems, State.pushFree, push8_of_stop (s := s.drawn 1) _ hw]; exact hr _
      | some b => rw [pushItems, push8_of_stop b hw]; exact hr _
    split at h
    · rename_i e' he
      obtain rfl := Option.some.inj h
      refine hfirst _ (fun f => ?_) rfl he
      obtain rfl | rfl := writeStop_eq he <;> rfl
    · rename_i he
      have hw1 : takes s 0 (s.sp - 1) 1 := by
        intro i hi
        obtain rfl : i = 0 := by omega
        simpa using takes_of_no_stop he
      have hnext : ∀ u : State, u.dev = s.dev → u.sp = s.sp - 1 → pushItems xs u = e := by
        intro u hu1 hu2
        apply ih
        rw [List.findSome?_map] at h
        rw [pushStops]
        refine Eq.trans ?_ h
        congr 1
        funext i
        have e1 : s.sp - BitVec.ofNat 16 (i + 1 + 1) = s.sp - 1 - BitVec.ofNat 16 (i + 1) := by
          rw [BitVec.ofNat_add (i + 1) 1]; bv_omega
        simp only [Function.comp, Nat.succ_eq_add_one, e1, writeStop, hu1, hu2]
      cases x with
      | none =>
        rw [pushItems, State.pushFree, push8_of_takes (s.drawn 1) _ hw1, andThen_next]
        exact hnext _ rfl rfl
      | some b =>
        rw [pushItems, push8_of_takes s b hw1, andThen_next]
        exact hnext _ rfl rfl

/-- The state after a push of a frame that devices share, as Safety says it. -/
theorem pushedTaken_of_items (s : State) (frame : List (Option Byte)) (hm : s.mem.wf) (hk : frame.length ≤ 65536)
    (hne : frame ≠ []) (h : takes s 0 (s.sp - BitVec.ofNat 16 frame.length) frame.length) :
    ∃ t, andThen (pushItems frame.reverse s) (fun t => .next t.done) = .next t ∧ pushedTaken s t frame ∧ t.mem.wf := by
  obtain ⟨t, h0, h1, h2, h3, h4⟩ := pushItems_of_takes frame.reverse s hm (by simpa using hk) (by simpa using h)
  simp only [List.length_reverse, List.reverse_eq_nil_iff, hne, if_false, List.reverse_reverse] at h1 h2 h3
  refine ⟨t.done, by rw [h0]; rfl, ⟨?_, ?_, ?_, ?_, ?_, ?_⟩, h4⟩
  · have hpc : t.nextPc = s.nextPc := by rw [h1]; rfl
    simp only [State.done, hpc]
    exact continuesAt_finish (by rw [h1]) (by rw [h1])
  · intro i b hi hr
    exact h2 i b hi hr
  · exact h3
  · rw [h1]; rfl
  · intro x _; rw [h1]; rfl
  · rw [h1]
    simp [State.special, State.done, State.finish, State.settle, State.setPc, List.countP_reverse]

/-- The state after a push of a frame, as Safety says it. -/
theorem pushed_of_items (s : State) (frame : List (Option Byte)) (hm : s.mem.wf) (hk : frame.length ≤ 65536)
    (hne : frame ≠ []) (h : writable s 0 (s.sp - BitVec.ofNat 16 frame.length) frame.length) :
    ∃ t, andThen (pushItems frame.reverse s) (fun t => .next t.done) = .next t ∧ pushed s t frame ∧ t.mem.wf := by
  obtain ⟨t, h0, ⟨h1, h2, h3, h4, h5, h6⟩, h7⟩ := pushedTaken_of_items s frame hm hk hne (takes_of_writable h)
  refine ⟨t, h0, ⟨h1, ?_, fun k hk => h3 k fun hc => hk (List.mem_of_mem_filter hc), h4, h5, h6⟩, h7⟩
  intro i b hi
  have hsp : t.sp = s.sp - BitVec.ofNat 16 frame.length := congrArg Special.sp h6
  apply h2 i b hi
  rw [hsp]
  exact (h i (List.getElem?_eq_some_iff.1 hi).1).2

/-- Two pushes in a row are one push of both. -/
theorem pushItems_chain {s : State} {xs ys : List (Option Byte)} {x : Res State} {f g : State → Res State}
    (hx : x = pushItems xs s) (hf : ∀ s1, pushSame s s1 → f s1 = andThen (pushItems ys s1) g) :
    andThen x f = andThen (pushItems (xs ++ ys) s) g := by
  subst hx
  rw [pushItems_append, andThen_assoc]
  cases h : pushItems xs s with
  | next a => exact hf a (pushItems_same h)
  | fault _ => rfl
  | refused _ => rfl

/-! The items of PUSH register_list -/

theorem pushReturn_eq (s : State) (seg : CodeSeg) (off : Word) :
    s.pushReturn seg off = pushItems (returnFrame s seg off).reverse s := by
  cases h : s.isLarge
  · rw [State.pushReturn, h, returnFrame, h]; exact pushAll_eq_pushItems _ _
  · rw [State.pushReturn, h, returnFrame, h]
    simp only [if_true, List.reverse_cons, List.reverse_nil, List.nil_append, List.cons_append, pushItems]
    rfl

theorem pushEaItem_eq (s s1 : State) (h : pushSame s s1) :
    s1.pushEaItem = pushItems [some (s.ea.extractLsb' 8 8), some (s.ea.extractLsb' 0 8)] s1 := by
  rw [State.pushEaItem, pushAll_eq_pushItems, h]; rfl

theorem pushLrItem_eq (s s1 : State) (h : pushSame s s1) :
    s1.pushLrItem = pushItems (returnFrame s (s.segRead s.lcsr) s.lr).reverse s1 := by
  rw [State.pushLrItem, pushReturn_eq, h]; rfl

theorem pushElrItem_eq (s s1 : State) (h : pushSame s s1) (hp : s.levelPresent s.useLevel = true) :
    s1.pushElrItem = pushItems (returnFrame s (s.ecsr s.useLevel) (s.elr s.useLevel)).reverse s1 := by
  have hn : s1.needLevel s1.useLevel = .next s1 := by
    rw [h]; exact if_pos hp
  rw [State.pushElrItem, hn, andThen_next, pushReturn_eq, h]; rfl

theorem pushEpswItem_eq (s s1 : State) (h : pushSame s s1) (hp : s.levelPresent s.useLevel = true) :
    s1.pushEpswItem = pushItems [none, s.epsw s.useLevel] s1 := by
  have hn : s1.needLevel s1.useLevel = .next s1 := by
    rw [h]; exact if_pos hp
  have he : s1.epsw s1.useLevel = s.epsw s.useLevel := by rw [h]; rfl
  rw [State.pushEpswItem, hn, andThen_next, he]
  cases s.epsw s.useLevel with
  | none =>
    simp only [pushItems]
    congr 1; funext s2
    cases s2.pushFree <;> rfl
  | some p =>
    simp only [pushItems]
    congr 1; funext s2
    cases s2.push8 p <;> rfl

/-! Pops -/

theorem andThen_of {α β : Type} {x : Res α} {a : α} (h : x = .next a) (f : α → Res β) : andThen x f = f a := by
  rw [h]; rfl

/-- `u` after a pop at distance `i` above the SP of `s`, `c` values having been drawn in all. -/
def popStep (s u : State) (i c : Nat) : State :=
  { u with ar := s.sp + BitVec.ofNat 16 i, sp := s.sp + BitVec.ofNat 16 (i + 1), draws := c }

/-- How pops find the stack of `s`: a pop at distance `i` above its SP, `d i` values having been drawn before it, gives
the stack byte of `v` there. With no device on the stack `v` is `s`; with devices it is `s` with the memory the core
sees. -/
def popsAs (s v : State) (d : Nat → Nat) (i : Nat) : Prop :=
  ∀ u : State, u.mem = s.mem → u.dev = s.dev → u.sp = s.sp + BitVec.ofNat 16 i → u.draws = d i →
    u.pop8 = .next (stackByte v i, popStep s u i (d (i + 1)))

/-- Pops of memory (20_memory.md R114). -/
theorem popsAs_of_canRead {s : State} {i : Nat} (c : Nat)
    (hr : canRead s.dev (dataKey s.dev 0 (s.sp + BitVec.ofNat 16 i)) = true) : popsAs s s (fun _ => c) i := by
  intro u hm hd hsp hc
  rw [State.pop8, State.readByte_of_canRead _ _ _ (by rw [hd, hsp]; exact hr), andThen_next]
  simp only [State.latchAr, State.setSp, popStep, stackByte, hm, hd, hsp, BitVec.ofNat_add, ← BitVec.add_assoc, ← hc]
  rfl

/-- How many of the stack bytes at the distances `is` that lie below `i` a device answers. -/
def deviceBelow (s : State) (is : List Nat) (i : Nat) : Nat :=
  is.countP fun j => decide (j < i) && isDevice s.dev (dataKey s.dev 0 (s.sp + BitVec.ofNat 16 j))

theorem deviceBelow_succ (s : State) {is : List Nat} (hn : is.Nodup) (i : Nat) :
    deviceBelow s is (i + 1) =
      deviceBelow s is i +
        if i ∈ is ∧ isDevice s.dev (dataKey s.dev 0 (s.sp + BitVec.ofNat 16 i)) = true then 1 else 0 := by
  induction is with
  | nil => simp [deviceBelow]
  | cons j is ih =>
    rw [List.nodup_cons] at hn
    have ih := ih hn.2
    simp only [deviceBelow, List.countP_cons, List.mem_cons] at ih ⊢
    rw [ih]
    by_cases e : j = i
    · subst e
      by_cases hd : isDevice s.dev (dataKey s.dev 0 (s.sp + BitVec.ofNat 16 j)) = true <;> simp [hn.1]
    · have e1 : decide (j < i + 1) = decide (j < i) := by
        rw [decide_eq_decide]; omega
      have e2 : ¬ i = j := fun h => e h.symm
      simp only [e1, e2, false_or]
      omega

theorem deviceBelow_skip (s : State) {is : List Nat} (hn : is.Nodup) {i : Nat} (hi : i ∉ is) :
    deviceBelow s is (i + 1) = deviceBelow s is i := by rw [deviceBelow_succ s hn, if_neg fun h => hi h.1]; rfl

theorem deviceBelow_all (s : State) (is : List Nat) (i : Nat) (h : ∀ j ∈ is, j < i) :
    deviceBelow s is i = deviceCount s (stackKeys s is) := by
  rw [deviceBelow, deviceCount, stackKeys, List.countP_map]
  apply List.countP_congr
  intro j hj
  simp [h j hj]

theorem deviceBelow_zero (s : State) (is : List Nat) : deviceBelow s is 0 = 0 := by simp [deviceBelow]

/-- Pops of memory and devices: there is a memory, that of `s` but for the bytes of devices, which they find
(00_scope.md R7, log 8). -/
theorem popsAs_of_answered (s : State) (is : List Nat) (hm : s.mem.wf) (hn : is.Nodup) (hk : ∀ i ∈ is, i < 65536)
    (h : ∀ x ∈ stackKeys s is, kindAt s.dev x ≠ none) :
    ∃ m, seenMemory s m ∧ ∀ i ∈ is, popsAs s { s with mem := m } (fun j => s.draws + deviceBelow s is j) i := by
  let answer (i : Nat) : Byte :=
    if isDevice s.dev (dataKey s.dev 0 (s.sp + BitVec.ofNat 16 i)) = true then
      Config.freeByte (s.draws + deviceBelow s is i)
    else stackByte s i
  obtain ⟨m, h1, -, h3⟩ := seenMemory_exists s
    (is.map fun i => (dataKey s.dev 0 (s.sp + BitVec.ofNat 16 i), answer i)) hm
    (by
      rw [List.map_map, List.nodup_map_iff_inj_on hn]
      intro i hi j hj e
      have e2 : (s.sp + BitVec.ofNat 16 i).toNat = (s.sp + BitVec.ofNat 16 j).toNat := by rw [dataKey_inj e]
      have hi := hk i hi
      have hj := hk j hj
      simp [BitVec.toNat_add] at e2
      have := s.sp.isLt
      omega)
    (by
      intro c hc hd
      obtain ⟨i, -, rfl⟩ := List.mem_map.1 hc
      exact if_neg (Bool.eq_false_iff.1 hd))
  refine ⟨m, h1, fun i hi u um ud us uc => ?_⟩
  have hv : stackByte { s with mem := m } i = answer i := h3 _ (List.mem_map_of_mem hi)
  have hs := deviceBelow_succ s hn i
  rw [hv]
  by_cases hd : isDevice s.dev (dataKey s.dev 0 (s.sp + BitVec.ofNat 16 i)) = true
  · rw [if_pos ⟨hi, hd⟩] at hs
    rw [State.pop8, State.readByte_of_device _ _ _ (by rw [ud, us]; exact hd), andThen_next]
    simp only [State.latchAr, State.setSp, State.drawn, popStep, us, uc, hs, answer, if_pos hd, BitVec.ofNat_add,
      ← BitVec.add_assoc]
    rfl
  · rw [if_neg fun h => hd h.2] at hs
    have hr : canRead s.dev (dataKey s.dev 0 (s.sp + BitVec.ofNat 16 i)) = true :=
      canRead_of_not_device (h _ (List.mem_map_of_mem hi)) (Bool.eq_false_iff.2 hd)
    refine (popsAs_of_canRead (s := s) _ hr u um ud us uc).trans ?_
    simp only [answer, if_neg hd, hs, Nat.add_zero]

/-- A pop at distance `i` above the SP of `s`. -/
theorem pop8_at {s u : State} {i : Nat} (hm : u.mem = s.mem) (hd : u.dev = s.dev) (hsp : u.sp = s.sp + BitVec.ofNat 16 i)
    (hr : canRead s.dev (dataKey s.dev 0 (s.sp + BitVec.ofNat 16 i)) = true) :
    u.pop8 = .next (stackByte s i, popStep s u i u.draws) :=
  popsAs_of_canRead (s := s) u.draws hr u hm hd hsp rfl

theorem popAll_as {s v : State} {d : Nat → Nat} (k : Nat) {u : State} {i : Nat} (hm : u.mem = s.mem)
    (hd : u.dev = s.dev) (hsp : u.sp = s.sp + BitVec.ofNat 16 i) (hc : u.draws = d i)
    (hr : ∀ j < k, popsAs s v d (i + j)) :
    u.popAll k =
      .next ((List.range k).map fun j => stackByte v (i + j),
        { u with
          ar := if k = 0 then u.ar else s.sp + BitVec.ofNat 16 (i + k - 1)
          sp := s.sp + BitVec.ofNat 16 (i + k)
          draws := d (i + k) }) := by
  induction k generalizing u i with
  | zero => rw [State.popAll]; simp [← hsp, ← hc]
  | succ k ih =>
    rw [State.popAll, hr 0 (by omega) u hm hd hsp hc, andThen_next]
    simp only [Nat.add_zero]
    rw [ih (u := popStep s u i (d (i + 1))) (i := i + 1) hm hd rfl rfl
        (fun j hj => by have := hr (j + 1) (by omega); rwa [show i + 1 + j = i + (j + 1) by omega]), andThen_next]
    simp only [popStep, Host.Outcome.next.injEq, Prod.mk.injEq, State.mk.injEq, true_and, and_true]
    refine ⟨?_, ?_, ?_, ?_⟩
    · rw [List.range_succ_eq_map, List.map_cons, List.map_map]
      congr 1
      apply List.map_congr_left
      intro j _
      simp only [Function.comp]
      congr 1; omega
    · rw [show i + 1 + k = i + (k + 1) by omega]
    · by_cases hk : k = 0
      · subst hk; simp
      · simp only [hk, if_false]
        rw [show i + 1 + k - 1 = i + (k + 1) - 1 by omega]
        simp
    · rw [show i + 1 + k = i + (k + 1) by omega]

theorem popAll_at {s : State} (k : Nat) {u : State} {i : Nat} (hm : u.mem = s.mem) (hd : u.dev = s.dev)
    (hsp : u.sp = s.sp + BitVec.ofNat 16 i)
    (hr : ∀ j < k, canRead s.dev (dataKey s.dev 0 (s.sp + BitVec.ofNat 16 (i + j))) = true) :
    u.popAll k =
      .next ((List.range k).map fun j => stackByte s (i + j),
        { u with
          ar := if k = 0 then u.ar else s.sp + BitVec.ofNat 16 (i + k - 1)
          sp := s.sp + BitVec.ofNat 16 (i + k) }) :=
  popAll_as (d := fun _ => u.draws) k hm hd hsp rfl fun j hj => popsAs_of_canRead _ (hr j hj)

/-- The EA item of POP. -/
theorem popEaItem_as {s v u : State} {d : Nat → Nat} {i : Nat} (hm : u.mem = s.mem) (hd : u.dev = s.dev)
    (hsp : u.sp = s.sp + BitVec.ofNat 16 i) (hc : u.draws = d i) (hr : ∀ j ∈ [i, i + 1], popsAs s v d j) :
    u.popEaItem =
      .next { u with
        ea := stackWord v i
        ar := s.sp + BitVec.ofNat 16 (i + 1)
        sp := s.sp + BitVec.ofNat 16 (i + 2)
        draws := d (i + 2) } := by
  exact (andThen_of (hr i (by simp) u hm hd hsp hc) _).trans (andThen_of (hr (i + 1) (by simp) (popStep s u i (d (i + 1))) hm hd rfl rfl) _)

/-- The return-address item of POP; its dummy byte is skipped. -/
theorem popReturn_as {s v u : State} {d : Nat → Nat} {i : Nat} (hm : u.mem = s.mem) (hd : u.dev = s.dev)
    (hsp : u.sp = s.sp + BitVec.ofNat 16 i) (hc : u.draws = d i) (hr : ∀ j ∈ returnReads s i, popsAs s v d j)
    (hskip : s.isLarge = true → d (i + 4) = d (i + 3)) :
    u.popReturn =
      .next (stackWord v i, if s.isLarge then (stackByte v (i + 2)).extractLsb' 0 4 else 0,
        { u with
          ar := s.sp + BitVec.ofNat 16 (if s.isLarge then i + 2 else i + 1)
          sp := s.sp + BitVec.ofNat 16 (i + returnSize s)
          draws := d (i + returnSize s) }) := by
  have hl : u.isLarge = s.isLarge := by simp [State.isLarge, hd]
  cases h : s.isLarge
  · rw [returnReads, h] at hr
    rw [State.popReturn, hl, h]
    refine (andThen_of (hr i (by simp) u hm hd hsp hc) _).trans
      ((andThen_of (hr (i + 1) (by simp) (popStep s u i (d (i + 1))) hm hd rfl rfl) _).trans ?_)
    rw [returnSize, h]; rfl
  · rw [returnReads, h] at hr
    rw [State.popReturn, hl, h]
    refine (andThen_of (hr i (by simp) u hm hd hsp hc) _).trans
      ((andThen_of (hr (i + 1) (by simp) (popStep s u i (d (i + 1))) hm hd rfl rfl) _).trans
        ((andThen_of (hr (i + 2) (by simp) (popStep s u (i + 1) (d (i + 2))) hm hd rfl rfl) _).trans ?_))
    have e : s.sp + BitVec.ofNat 16 (i + 2 + 1) + 1 = s.sp + BitVec.ofNat 16 (i + 4) := by
      rw [show i + 4 = i + 2 + 1 + 1 by omega, BitVec.ofNat_add (i + 2 + 1) 1, ← BitVec.add_assoc]; rfl
    rw [returnSize, h]
    simp only [popStep, State.skip8, State.setSp, if_true, e, hskip h]
    rfl

/-- The PSW item of POP; its dummy byte is skipped. -/
theorem popPswItem_as {s v u : State} {d : Nat → Nat} {i : Nat} (hm : u.mem = s.mem) (hd : u.dev = s.dev)
    (hsp : u.sp = s.sp + BitVec.ofNat 16 i) (hc : u.draws = d i) (hr : popsAs s v d i) (hskip : d (i + 2) = d (i + 1)) :
    u.popPswItem =
      .next { u with
        psw := stackByte v i
        ar := s.sp + BitVec.ofNat 16 i
        sp := s.sp + BitVec.ofNat 16 (i + 2)
        draws := d (i + 2) } := by
  rw [State.popPswItem, hr u hm hd hsp hc, andThen_next]
  simp only [popStep, State.skip8, State.setSp, State.setPsw, hskip]
  rw [show s.sp + BitVec.ofNat 16 (i + 1) + 1 = s.sp + BitVec.ofNat 16 (i + 2) by
    rw [show i + 2 = i + 1 + 1 by omega, BitVec.ofNat_add (i + 1) 1, ← BitVec.add_assoc]; rfl]

/-- The LR item of POP. -/
theorem popLrItem_as {s v u : State} {d : Nat → Nat} {i : Nat} (hm : u.mem = s.mem) (hd : u.dev = s.dev)
    (hsp : u.sp = s.sp + BitVec.ofNat 16 i) (hc : u.draws = d i) (hr : ∀ j ∈ returnReads s i, popsAs s v d j)
    (hskip : s.isLarge = true → d (i + 4) = d (i + 3)) :
    u.popLrItem =
      .next { u with
        lr := stackWord v i &&& 0xFFFE#16
        lcsr := if s.isLarge then (stackByte v (i + 2)).extractLsb' 0 4 else u.lcsr
        ar := s.sp + BitVec.ofNat 16 (if s.isLarge then i + 2 else i + 1)
        sp := s.sp + BitVec.ofNat 16 (i + returnSize s)
        draws := d (i + returnSize s) } := by
  have hl : u.isLarge = s.isLarge := by simp [State.isLarge, hd]
  refine (andThen_of (popReturn_as hm hd hsp hc hr hskip) _).trans ?_
  cases h : s.isLarge <;> rw [h] at hl <;> simp [State.setLcsr, State.setLr, State.segWrite, State.isLarge] <;>
    simp [State.isLarge] at hl <;> simp [hl]

/-- The PC item of POP. -/
theorem popPcItem_as {s v u : State} {d : Nat → Nat} {i : Nat} (hm : u.mem = s.mem) (hd : u.dev = s.dev)
    (hsp : u.sp = s.sp + BitVec.ofNat 16 i) (hc : u.draws = d i) (hr : ∀ j ∈ returnReads s i, popsAs s v d j)
    (hskip : s.isLarge = true → d (i + 4) = d (i + 3)) :
    u.popPcItem =
      .next (({ u with
        csr := if s.isLarge then (stackByte v (i + 2)).extractLsb' 0 4 else u.csr
        ar := s.sp + BitVec.ofNat 16 (if s.isLarge then i + 2 else i + 1)
        sp := s.sp + BitVec.ofNat 16 (i + returnSize s)
        draws := d (i + returnSize s) } : State).finish (stackWord v i)) := by
  have hl : u.isLarge = s.isLarge := by simp [State.isLarge, hd]
  refine (andThen_of (popReturn_as hm hd hsp hc hr hskip) _).trans ?_
  cases h : s.isLarge <;> rw [h] at hl <;> simp [State.setCsr, State.segWrite, State.isLarge] <;>
    simp [State.isLarge] at hl <;> simp [hl]

/-! The same items where the stack is memory -/

theorem popEaItem_at {s u : State} {i : Nat} (hm : u.mem = s.mem) (hd : u.dev = s.dev)
    (hsp : u.sp = s.sp + BitVec.ofNat 16 i) (hr : stackReadable s [i, i + 1]) :
    u.popEaItem =
      .next { u with
        ea := stackWord s i
        ar := s.sp + BitVec.ofNat 16 (i + 1)
        sp := s.sp + BitVec.ofNat 16 (i + 2) } :=
  popEaItem_as (d := fun _ => u.draws) hm hd hsp rfl fun j hj => popsAs_of_canRead _ (hr j hj)

theorem popPswItem_at {s u : State} {i : Nat} (hm : u.mem = s.mem) (hd : u.dev = s.dev)
    (hsp : u.sp = s.sp + BitVec.ofNat 16 i) (hr : stackReadable s [i]) :
    u.popPswItem =
      .next { u with psw := stackByte s i, ar := s.sp + BitVec.ofNat 16 i, sp := s.sp + BitVec.ofNat 16 (i + 2) } :=
  popPswItem_as (d := fun _ => u.draws) hm hd hsp rfl (popsAs_of_canRead _ (hr i (by simp))) rfl

theorem popLrItem_at {s u : State} {i : Nat} (hm : u.mem = s.mem) (hd : u.dev = s.dev)
    (hsp : u.sp = s.sp + BitVec.ofNat 16 i) (hr : stackReadable s (returnReads s i)) :
    u.popLrItem =
      .next { u with
        lr := stackWord s i &&& 0xFFFE#16
        lcsr := if s.isLarge then (stackByte s (i + 2)).extractLsb' 0 4 else u.lcsr
        ar := s.sp + BitVec.ofNat 16 (if s.isLarge then i + 2 else i + 1)
        sp := s.sp + BitVec.ofNat 16 (i + returnSize s) } :=
  popLrItem_as (d := fun _ => u.draws) hm hd hsp rfl (fun j hj => popsAs_of_canRead _ (hr j hj)) fun _ => rfl

theorem popPcItem_at {s u : State} {i : Nat} (hm : u.mem = s.mem) (hd : u.dev = s.dev)
    (hsp : u.sp = s.sp + BitVec.ofNat 16 i) (hr : stackReadable s (returnReads s i)) :
    u.popPcItem =
      .next (({ u with
        csr := if s.isLarge then (stackByte s (i + 2)).extractLsb' 0 4 else u.csr
        ar := s.sp + BitVec.ofNat 16 (if s.isLarge then i + 2 else i + 1)
        sp := s.sp + BitVec.ofNat 16 (i + returnSize s) } : State).finish (stackWord s i)) :=
  popPcItem_as (d := fun _ => u.draws) hm hd hsp rfl (fun j hj => popsAs_of_canRead _ (hr j hj)) fun _ => rfl

/-! Where pops stop -/

/-- A piece `x` of a POP that reads the stack bytes at the distances `is` above the SP of `s` stops where MEMMAP has
nothing at one of them, and otherwise answers a state (`st` of its value) whose SP is `e` above that of `s`. -/
def popsTo {α : Type} (s : State) (is : List Nat) (e : Nat) (x : Res α) (st : α → State) : Prop :=
  ((∃ k ∈ stackKeys s is, kindAt s.dev k = none) ∧ x = .fault .readAbsent) ∨
    ((∀ k ∈ stackKeys s is, kindAt s.dev k ≠ none) ∧
      ∃ a, x = .next a ∧ (st a).dev = s.dev ∧ (st a).sp = s.sp + BitVec.ofNat 16 e)

theorem popsTo_stop {α : Type} {s : State} {is : List Nat} {e : Nat} {x : Res α} {st : α → State}
    (h : popsTo s is e x st) (hk : ∃ k ∈ stackKeys s is, kindAt s.dev k = none) : x = .fault .readAbsent := by
  obtain ⟨-, h⟩ | ⟨h, -⟩ := h
  · exact h
  · obtain ⟨k, hk, hn⟩ := hk
    exact absurd hn (h k hk)

/-- Two pieces in a row. -/
theorem popsTo_andThen {α β : Type} {s : State} {is js : List Nat} {e g : Nat} {x : Res α} {st : α → State}
    {f : α → Res β} {su : β → State} (h : popsTo s is e x st)
    (hf : ∀ a, (st a).dev = s.dev → (st a).sp = s.sp + BitVec.ofNat 16 e → popsTo s js g (f a) su) :
    popsTo s (is ++ js) g (andThen x f) su := by
  obtain ⟨⟨k, hk, hn⟩, rfl⟩ | ⟨hp, a, rfl, hd, hsp⟩ := h
  · exact .inl ⟨⟨k, by simp only [stackKeys, List.map_append, List.mem_append] at *; exact .inl hk, hn⟩, rfl⟩
  · obtain ⟨⟨k, hk, hn⟩, h⟩ | ⟨hq, b, h, hd', hsp'⟩ := hf a hd hsp
    · exact .inl ⟨⟨k, by simp only [stackKeys, List.map_append, List.mem_append] at *; exact .inr hk, hn⟩, h⟩
    · refine .inr ⟨fun k hk => ?_, b, h, hd', hsp'⟩
      simp only [stackKeys, List.map_append, List.mem_append] at *
      exact hk.elim (hp k) (hq k)

/-- A piece that reads nothing more. -/
theorem popsTo_next {α : Type} {s : State} {e : Nat} {a : α} {st : α → State} (hd : (st a).dev = s.dev)
    (hsp : (st a).sp = s.sp + BitVec.ofNat 16 e) : popsTo s [] e (.next a) st :=
  .inr ⟨by simp [stackKeys], a, rfl, hd, hsp⟩

theorem popsTo_pop8 {s u : State} {i : Nat} (hd : u.dev = s.dev) (hsp : u.sp = s.sp + BitVec.ofNat 16 i) :
    popsTo s [i] (i + 1) u.pop8 (·.2) := by
  by_cases hk : kindAt s.dev (dataKey s.dev 0 (s.sp + BitVec.ofNat 16 i)) = none
  · refine .inl ⟨⟨_, List.mem_singleton_self _, hk⟩, ?_⟩
    rw [State.pop8, State.readByte_of_absent _ _ _ (by rw [hd, hsp]; exact hk)]; rfl
  · obtain ⟨b, hb, -⟩ := u.readByte_of_answered 0 u.sp (by rw [hd, hsp]; exact hk)
    refine .inr ⟨by simpa [stackKeys] using hk, _, by rw [State.pop8, hb]; rfl, hd, ?_⟩
    simp only [State.setSp, hsp]
    rw [BitVec.ofNat_add i 1, ← BitVec.add_assoc]; rfl

theorem popsTo_popAll {s : State} (k : Nat) {u : State} {i : Nat} (hd : u.dev = s.dev)
    (hsp : u.sp = s.sp + BitVec.ofNat 16 i) : popsTo s (List.range' i k) (i + k) (u.popAll k) (·.2) := by
  induction k generalizing u i with
  | zero => exact popsTo_next hd hsp
  | succ k ih =>
    have h := popsTo_andThen (popsTo_pop8 hd hsp) (f := fun p => andThen (p.2.popAll k) fun q => .next (p.1 :: q.1, q.2))
      (js := List.range' (i + 1) k) (g := i + 1 + k) (su := (·.2)) fun a ha hb => by
        have := popsTo_andThen (ih ha hb) (f := fun q => .next (a.1 :: q.1, q.2)) (js := []) (su := (·.2))
          fun q hq hq' => popsTo_next hq hq'
        rwa [List.append_nil] at this
    rw [show i + (k + 1) = i + 1 + k by omega]
    exact h

theorem skip8_sp {s u : State} {i : Nat} (h : u.sp = s.sp + BitVec.ofNat 16 i) :
    u.skip8.sp = s.sp + BitVec.ofNat 16 (i + 1) := by
  rw [BitVec.ofNat_add i 1, ← BitVec.add_assoc, ← h]; rfl

theorem popsTo_popEaItem {s u : State} {i : Nat} (hd : u.dev = s.dev) (hsp : u.sp = s.sp + BitVec.ofNat 16 i) :
    popsTo s [i, i + 1] (i + 2) u.popEaItem id :=
  popsTo_andThen (popsTo_pop8 hd hsp) fun _ ha hb =>
    popsTo_andThen (js := []) (popsTo_pop8 ha hb) fun _ hc hd => popsTo_next hc hd

theorem popsTo_popPswItem {s u : State} {i : Nat} (hd : u.dev = s.dev) (hsp : u.sp = s.sp + BitVec.ofNat 16 i) :
    popsTo s [i] (i + 2) u.popPswItem id :=
  popsTo_andThen (js := []) (popsTo_pop8 hd hsp) fun _ ha hb => popsTo_next ha (skip8_sp hb)

theorem popsTo_popReturn {s u : State} {i : Nat} (hd : u.dev = s.dev) (hsp : u.sp = s.sp + BitVec.ofNat 16 i) :
    popsTo s (returnReads s i) (i + returnSize s) u.popReturn (·.2.2) := by
  have hl : u.isLarge = s.isLarge := by simp [State.isLarge, hd]
  cases h : s.isLarge
  · rw [returnReads, returnSize, State.popReturn, hl, h]
    exact popsTo_andThen (popsTo_pop8 hd hsp) fun _ ha hb =>
      popsTo_andThen (js := []) (popsTo_pop8 ha hb) fun _ hc hd => popsTo_next hc hd
  · rw [returnReads, returnSize, State.popReturn, hl, h]
    exact popsTo_andThen (popsTo_pop8 hd hsp) fun _ ha hb =>
      popsTo_andThen (js := [i + 2]) (popsTo_pop8 ha hb) fun _ hc hd =>
        popsTo_andThen (js := []) (popsTo_pop8 hc hd) fun _ he hf => popsTo_next he (skip8_sp hf)

theorem popsTo_popLrItem {s u : State} {i : Nat} (hd : u.dev = s.dev) (hsp : u.sp = s.sp + BitVec.ofNat 16 i) :
    popsTo s (returnReads s i) (i + returnSize s) u.popLrItem id := by
  have := popsTo_andThen (popsTo_popReturn hd hsp) (js := []) (g := i + returnSize s) (su := id)
    (f := fun p => .next ((p.2.2.setLr p.1).setLcsr p.2.1)) fun a ha hb =>
      popsTo_next (a := (a.2.2.setLr a.1).setLcsr a.2.1) (st := id) ha hb
  rwa [List.append_nil] at this

theorem popsTo_popPcItem {s u : State} {i : Nat} (hd : u.dev = s.dev) (hsp : u.sp = s.sp + BitVec.ofNat 16 i) :
    popsTo s (returnReads s i) (i + returnSize s) u.popPcItem id := by
  have := popsTo_andThen (popsTo_popReturn hd hsp) (js := []) (g := i + returnSize s) (su := id)
    (f := fun p => .next ((p.2.2.setCsr p.2.1).finish p.1)) fun a ha hb =>
      popsTo_next (a := (a.2.2.setCsr a.2.1).finish a.1) (st := id) ha hb
  rwa [List.append_nil] at this

end Sys2Proof.Machine
end

