-- ==== Sys2Proof/Laws/Kept.lean ====
section
/-! SUPPORT. What every operation an instruction is built from keeps: the device, the pending requests, the segment
registers CSR and DSR, the windows, the canonical forms, and bit 0 of the address registers. -/
namespace Sys2Proof.Machine

/-- Bit 0 of an address register is clear (10_state.md R58, R63). -/
def evenWord (v : Word) : Prop := v &&& 0xFFFE#16 = v

theorem evenWord_and (v : Word) : evenWord (v &&& 0xFFFE#16) := by
  unfold evenWord
  rw [BitVec.and_assoc]
  rfl

/-- In the SMALL model the backup segment registers are 0 (10_state.md R68). -/
def segsZero (s : State) : Prop := s.lcsr = 0 ∧ s.ecsr1 = 0 ∧ s.ecsr2 = 0 ∧ s.ecsr3 = 0

/-- What an instruction keeps of `s` on the way to `u`, before its end. -/
structure Kept (s u : State) : Prop where
  dev : u.dev = s.dev
  req : u.req = s.req
  resetIn : u.resetIn = s.resetIn
  csr : u.csr = s.csr
  dsr : u.dsr = s.dsr
  ei : u.eiWindow = s.eiWindow
  mie : u.mieWindow = s.mieWindow
  stores : ∀ k ∈ s.codeStores, k ∈ u.codeStores
  storesWf : s.codeStores.wf → u.codeStores.wf
  memWf : s.mem.wf → u.mem.wf
  lr : evenWord s.lr → evenWord u.lr
  elr1 : evenWord s.elr1 → evenWord u.elr1
  elr2 : evenWord s.elr2 → evenWord u.elr2
  elr3 : evenWord s.elr3 → evenWord u.elr3
  segs : s.isLarge = false → segsZero s → segsZero u

namespace Kept

theorem refl (s : State) : Kept s s := ⟨rfl, rfl, rfl, rfl, rfl, rfl, rfl, fun _ h => h, id, id, id, id, id, id, fun _ h => h⟩

theorem trans {s u v : State} (h : Kept s u) (g : Kept u v) : Kept s v where
  dev := g.dev.trans h.dev
  req := g.req.trans h.req
  resetIn := g.resetIn.trans h.resetIn
  csr := g.csr.trans h.csr
  dsr := g.dsr.trans h.dsr
  ei := g.ei.trans h.ei
  mie := g.mie.trans h.mie
  stores k hk := g.stores k (h.stores k hk)
  storesWf w := g.storesWf (h.storesWf w)
  memWf w := g.memWf (h.memWf w)
  lr w := g.lr (h.lr w)
  elr1 w := g.elr1 (h.elr1 w)
  elr2 w := g.elr2 (h.elr2 w)
  elr3 w := g.elr3 (h.elr3 w)
  segs l w := g.segs (by rw [State.isLarge, h.dev]; exact l) (h.segs l w)

/-- A state that differs in other fields only. -/
theorem of_same {s u : State} (h : u = { s with
    r := u.r, cr := u.cr, psw := u.psw, pc := u.pc, epsw1 := u.epsw1, epsw2 := u.epsw2, epsw3 := u.epsw3
    sp := u.sp, ea := u.ea, ar := u.ar, pfx := u.pfx, iblock := u.iblock, entryBlock := u.entryBlock, levelView := u.levelView
    draws := u.draws }) : Kept s u := by
  rw [h]
  exact ⟨rfl, rfl, rfl, rfl, rfl, rfl, rfl, fun _ h => h, id, id, id, id, id, id, fun _ h => h⟩

theorem setReg (s : State) (n : Reg) (v : Byte) : Kept s (s.setReg n v) := of_same rfl
theorem setEr (s : State) (n : Reg) (v : Word) : Kept s (s.setEr n v) := of_same rfl
theorem setRegs (s : State) (n : Reg) (bs : List Byte) : Kept s (s.setRegs n bs) :=
  of_same (by rw [State.setRegs_only])
theorem setCreg (s : State) (n : Reg) (v : Byte) : Kept s (s.setCreg n v) := of_same rfl
theorem setCregs (s : State) (n : Reg) (bs : List Byte) : Kept s (s.setCregs n bs) := by
  induction bs generalizing s n with
  | nil => exact refl s
  | cons b bs ih => exact (setCreg s n b).trans (ih _ _)
theorem setPsw (s : State) (p : Byte) : Kept s (s.setPsw p) := of_same rfl
theorem setSp (s : State) (v : Word) : Kept s (s.setSp v) := of_same rfl
theorem setEa (s : State) (v : Word) : Kept s (s.setEa v) := of_same rfl
theorem latchAr (s : State) (v : Word) : Kept s (s.latchAr v) := of_same rfl
theorem drawn (s : State) (k : Nat) : Kept s (s.drawn k) := of_same rfl
theorem bumpEa (s : State) (k : Nat) : Kept s (s.bumpEa k) := of_same rfl
theorem skip8 (s : State) : Kept s s.skip8 := of_same rfl

theorem cregsDrawn (s : State) (k : Nat) : Kept s (s.cregsDrawn k) := by
  unfold State.cregsDrawn
  split
  · exact drawn s k
  · exact refl s

theorem setLr (s : State) (v : Word) : Kept s (s.setLr v) :=
  ⟨rfl, rfl, rfl, rfl, rfl, rfl, rfl, fun _ h => h, id, id, fun _ => evenWord_and v, id, id, id, fun _ h => h⟩

theorem segWrite_small {s : State} (h : s.isLarge = false) (old new : CodeSeg) : s.segWrite old new = old := by
  simp [State.segWrite, h]

theorem setLcsr (s : State) (v : CodeSeg) : Kept s (s.setLcsr v) :=
  ⟨rfl, rfl, rfl, rfl, rfl, rfl, rfl, fun _ h => h, id, id, id, id, id, id,
    fun l h => ⟨(segWrite_small l s.lcsr v).trans h.1, h.2⟩⟩

theorem setElr (s : State) (k : Level) (v : Word) : Kept s (s.setElr k v) := by
  obtain rfl | rfl | rfl | rfl := level_cases k
  · exact setLr s v
  · exact ⟨rfl, rfl, rfl, rfl, rfl, rfl, rfl, fun _ h => h, id, id, id, fun _ => evenWord_and v, id, id, fun _ h => h⟩
  · exact ⟨rfl, rfl, rfl, rfl, rfl, rfl, rfl, fun _ h => h, id, id, id, id, fun _ => evenWord_and v, id, fun _ h => h⟩
  · exact ⟨rfl, rfl, rfl, rfl, rfl, rfl, rfl, fun _ h => h, id, id, id, id, id, fun _ => evenWord_and v, fun _ h => h⟩

theorem setEcsr (s : State) (k : Level) (v : CodeSeg) : Kept s (s.setEcsr k v) := by
  obtain rfl | rfl | rfl | rfl := level_cases k
  · exact setLcsr s v
  · exact ⟨rfl, rfl, rfl, rfl, rfl, rfl, rfl, fun _ h => h, id, id, id, id, id, id,
      fun l h => ⟨h.1, (segWrite_small l s.ecsr1 v).trans h.2.1, h.2.2⟩⟩
  · exact ⟨rfl, rfl, rfl, rfl, rfl, rfl, rfl, fun _ h => h, id, id, id, id, id, id,
      fun l h => ⟨h.1, h.2.1, (segWrite_small l s.ecsr2 v).trans h.2.2.1, h.2.2.2⟩⟩
  · exact ⟨rfl, rfl, rfl, rfl, rfl, rfl, rfl, fun _ h => h, id, id, id, id, id, id,
      fun l h => ⟨h.1, h.2.1, h.2.2.1, (segWrite_small l s.ecsr3 v).trans h.2.2.2⟩⟩

theorem setEpsw (s : State) (k : Level) (v : Byte) : Kept s (s.setEpsw k v) := by
  obtain rfl | rfl | rfl | rfl := level_cases k
  · exact refl s
  · exact of_same rfl
  · exact of_same rfl
  · exact of_same rfl

/-! Operations that can stop -/

theorem loadRegs {s t : State} {off : Word} {n : Reg} {k : Nat} (h : s.loadRegs off n k = .next t) : Kept s t := by
  obtain ⟨bs, d, -, rfl⟩ := State.loadRegs_eq_next h
  exact (((of_same rfl : Kept s { s with draws := d }).trans (latchAr _ _)).trans (setRegs _ _ _)).trans (setPsw _ _)

theorem readByte {s : State} {seg : Byte} {off : Word} {p : Byte × State} (h : s.readByte seg off = .next p) :
    Kept s p.2 := by
  rw [State.readByte_eq_next h]; exact of_same rfl

theorem readBytes {s : State} {seg : Byte} {off : Word} {k : Nat} {p : List Byte × State}
    (h : s.readBytes seg off k = .next p) : Kept s p.2 := by
  rw [(State.readBytes_eq_next h).1]; exact of_same rfl

theorem writeMem {s t : State} {seg : Byte} {off : Word} {bs : List Byte} (h : s.writeMem seg off bs = .next t) :
    Kept s t := by
  obtain ⟨h1, -, h3, h4, h5⟩ := State.writeMem_eq_next h
  have e : t = { s with ar := off, mem := t.mem, codeStores := t.codeStores } := h1
  refine ⟨?_, ?_, ?_, ?_, ?_, ?_, ?_, fun k hk => (h5 k).2 (.inl hk), h4, h3, ?_, ?_, ?_, ?_, ?_⟩ <;> rw [e] <;>
    first | rfl | exact id | exact fun _ h => h

theorem storeRegs {s t : State} {off : Word} {n : Reg} {k : Nat} (h : s.storeRegs off n k = .next t) : Kept s t :=
  writeMem h

theorem needCoprocessor {s t : State} (h : s.needCoprocessor = .next t) : Kept s t := by
  unfold State.needCoprocessor at h
  split at h
  · simp at h
  · cases h; exact refl s

theorem needLevel {s t : State} {k : Level} (h : s.needLevel k = .next t) : Kept s t := by
  unfold State.needLevel at h
  split at h
  · cases h; exact refl s
  · simp at h

theorem needSegment {s t : State} {g : CodeSeg} (h : s.needSegment g = .next t) : Kept s t := by
  unfold State.needSegment at h
  split at h
  · simp at h
  · cases h; exact refl s

theorem loadCregs {s t : State} {n : Reg} {k : Nat} (h : s.loadCregs n k = .next t) : Kept s t := by
  obtain ⟨s0, h0, h⟩ := andThen_eq_next h
  obtain ⟨p, hp, h⟩ := andThen_eq_next h
  cases h
  exact (needCoprocessor h0).trans ((readBytes hp).trans ((latchAr _ _).trans (setCregs _ _ _)))

theorem storeCregs {s t : State} {m : Reg} {k : Nat} (h : s.storeCregs m k = .next t) : Kept s t := by
  obtain ⟨s0, h0, h⟩ := andThen_eq_next h
  exact (needCoprocessor h0).trans ((cregsDrawn _ _).trans (writeMem h))

theorem push8 {s t : State} {v : Byte} (h : s.push8 v = .next t) : Kept s t := (setSp s _).trans (writeMem h)

theorem pushFree {s t : State} (h : s.pushFree = .next t) : Kept s t := (drawn s 1).trans (push8 h)

theorem pushAll {s t : State} {bs : List Byte} (h : s.pushAll bs = .next t) : Kept s t := by
  induction bs generalizing s with
  | nil => cases h; exact refl _
  | cons b bs ih =>
    obtain ⟨s1, h1, h2⟩ := andThen_eq_next h
    exact (push8 h1).trans (ih h2)

theorem pushReturn {s t : State} {seg : CodeSeg} {off : Word} (h : s.pushReturn seg off = .next t) : Kept s t := by
  unfold State.pushReturn at h
  split at h
  · obtain ⟨s1, h1, h2⟩ := andThen_eq_next h
    exact (pushFree h1).trans (pushAll h2)
  · exact pushAll h

theorem pushEaItem {s t : State} (h : s.pushEaItem = .next t) : Kept s t := pushAll h

theorem pushLrItem {s t : State} (h : s.pushLrItem = .next t) : Kept s t := pushReturn h

theorem pushElrItem {s t : State} (h : s.pushElrItem = .next t) : Kept s t := by
  obtain ⟨s1, h1, h2⟩ := andThen_eq_next h
  exact (needLevel h1).trans (pushReturn h2)

theorem pushEpswItem {s t : State} (h : s.pushEpswItem = .next t) : Kept s t := by
  obtain ⟨s1, h1, h⟩ := andThen_eq_next h
  obtain ⟨s2, h2, h⟩ := andThen_eq_next h
  refine (needLevel h1).trans ((pushFree h2).trans ?_)
  cases he : s1.epsw s1.useLevel with
  | none => rw [he] at h; exact pushFree h
  | some p => rw [he] at h; exact push8 h

theorem pop8 {s : State} {p : Byte × State} (h : s.pop8 = .next p) : Kept s p.2 := by
  obtain ⟨b, hb, h⟩ := andThen_eq_next h
  cases h
  exact (readByte hb).trans ((latchAr _ _).trans (setSp _ _))

theorem popAll {s : State} {k : Nat} {p : List Byte × State} (h : s.popAll k = .next p) : Kept s p.2 := by
  induction k generalizing s p with
  | zero => cases h; exact refl s
  | succ k ih =>
    obtain ⟨q, h1, h⟩ := andThen_eq_next h
    obtain ⟨r, h2, h⟩ := andThen_eq_next h
    cases h
    exact (pop8 h1).trans (ih (p := r) h2)

theorem popReturn {s : State} {p : Word × CodeSeg × State} (h : s.popReturn = .next p) : Kept s p.2.2 := by
  obtain ⟨lo, h1, h⟩ := andThen_eq_next h
  obtain ⟨hi, h2, h⟩ := andThen_eq_next h
  refine (pop8 h1).trans ((pop8 h2).trans ?_)
  split at h
  · obtain ⟨seg, h3, h⟩ := andThen_eq_next h
    cases h
    exact (pop8 h3).trans (skip8 _)
  · cases h; exact refl _

theorem popEaItem {s t : State} (h : s.popEaItem = .next t) : Kept s t := by
  obtain ⟨lo, h1, h⟩ := andThen_eq_next h
  obtain ⟨hi, h2, h⟩ := andThen_eq_next h
  cases h
  exact (pop8 h1).trans ((pop8 h2).trans (setEa _ _))

theorem popLrItem {s t : State} (h : s.popLrItem = .next t) : Kept s t := by
  obtain ⟨p, h1, h⟩ := andThen_eq_next h
  cases h
  exact (popReturn h1).trans ((setLr _ _).trans (setLcsr _ _))

theorem popPswItem {s t : State} (h : s.popPswItem = .next t) : Kept s t := by
  obtain ⟨p, h1, h⟩ := andThen_eq_next h
  cases h
  exact (pop8 h1).trans ((skip8 _).trans (setPsw _ _))

/-- The PC item ends the instruction: CSR is written, nothing else that is kept. -/
theorem popPcItem {s t : State} (h : s.popPcItem = .next t) :
    ∃ u v off, Kept s u ∧ t = (u.setCsr v).finish off := by
  obtain ⟨p, h1, h⟩ := andThen_eq_next h
  cases h
  exact ⟨_, _, _, popReturn h1, rfl⟩

end Kept

end Sys2Proof.Machine
end

