-- ==== Sys2Proof/Laws/PerInstr.lean ====
section
/-! SUPPORT. Statements made instruction by instruction. `EncodeLength`: the encoder gives one word, or two for the
two-word forms of 30_encoding.md R161. -/
namespace Sys2Proof.Laws

/-- The encoder gives as many words as the instruction has (30_encoding.md R161). -/
def EncodeLength.Statement (i : Instr) : Prop := (encode i).length = if i.isTwoWord then 2 else 1

theorem EncodeLength.addRnRm (n m : Reg) : EncodeLength.Statement (.addRnRm n m) := rfl
theorem EncodeLength.addRnImm8 (n : Reg) (imm : BitVec 8) : EncodeLength.Statement (.addRnImm8 n imm) := rfl
theorem EncodeLength.movRnRm (n m : Reg) : EncodeLength.Statement (.movRnRm n m) := rfl
theorem EncodeLength.movRnImm8 (n : Reg) (imm : BitVec 8) : EncodeLength.Statement (.movRnImm8 n imm) := rfl
theorem EncodeLength.addcRnRm (n m : Reg) : EncodeLength.Statement (.addcRnRm n m) := rfl
theorem EncodeLength.addcRnImm8 (n : Reg) (imm : BitVec 8) : EncodeLength.Statement (.addcRnImm8 n imm) := rfl
theorem EncodeLength.cmpRnRm (n m : Reg) : EncodeLength.Statement (.cmpRnRm n m) := rfl
theorem EncodeLength.cmpRnImm8 (n : Reg) (imm : BitVec 8) : EncodeLength.Statement (.cmpRnImm8 n imm) := rfl
theorem EncodeLength.cmpcRnRm (n m : Reg) : EncodeLength.Statement (.cmpcRnRm n m) := rfl
theorem EncodeLength.cmpcRnImm8 (n : Reg) (imm : BitVec 8) : EncodeLength.Statement (.cmpcRnImm8 n imm) := rfl
theorem EncodeLength.andRnRm (n m : Reg) : EncodeLength.Statement (.andRnRm n m) := rfl
theorem EncodeLength.andRnImm8 (n : Reg) (imm : BitVec 8) : EncodeLength.Statement (.andRnImm8 n imm) := rfl
theorem EncodeLength.orRnRm (n m : Reg) : EncodeLength.Statement (.orRnRm n m) := rfl
theorem EncodeLength.orRnImm8 (n : Reg) (imm : BitVec 8) : EncodeLength.Statement (.orRnImm8 n imm) := rfl
theorem EncodeLength.xorRnRm (n m : Reg) : EncodeLength.Statement (.xorRnRm n m) := rfl
theorem EncodeLength.xorRnImm8 (n : Reg) (imm : BitVec 8) : EncodeLength.Statement (.xorRnImm8 n imm) := rfl
theorem EncodeLength.subRnRm (n m : Reg) : EncodeLength.Statement (.subRnRm n m) := rfl
theorem EncodeLength.subcRnRm (n m : Reg) : EncodeLength.Statement (.subcRnRm n m) := rfl
theorem EncodeLength.movErnErm (n m : Reg) : EncodeLength.Statement (.movErnErm n m) := rfl
theorem EncodeLength.movErnImm7 (n : Reg) (imm : BitVec 7) : EncodeLength.Statement (.movErnImm7 n imm) := rfl
theorem EncodeLength.addErnErm (n m : Reg) : EncodeLength.Statement (.addErnErm n m) := rfl
theorem EncodeLength.addErnImm7 (n : Reg) (imm : BitVec 7) : EncodeLength.Statement (.addErnImm7 n imm) := rfl
theorem EncodeLength.cmpErnErm (n m : Reg) : EncodeLength.Statement (.cmpErnErm n m) := rfl
theorem EncodeLength.sllRnRm (n m : Reg) : EncodeLength.Statement (.sllRnRm n m) := rfl
theorem EncodeLength.sllRnWidth (n : Reg) (width : BitVec 3) : EncodeLength.Statement (.sllRnWidth n width) := rfl
theorem EncodeLength.sllcRnRm (n m : Reg) : EncodeLength.Statement (.sllcRnRm n m) := rfl
theorem EncodeLength.sllcRnWidth (n : Reg) (width : BitVec 3) : EncodeLength.Statement (.sllcRnWidth n width) := rfl
theorem EncodeLength.sraRnRm (n m : Reg) : EncodeLength.Statement (.sraRnRm n m) := rfl
theorem EncodeLength.sraRnWidth (n : Reg) (width : BitVec 3) : EncodeLength.Statement (.sraRnWidth n width) := rfl
theorem EncodeLength.srlRnRm (n m : Reg) : EncodeLength.Statement (.srlRnRm n m) := rfl
theorem EncodeLength.srlRnWidth (n : Reg) (width : BitVec 3) : EncodeLength.Statement (.srlRnWidth n width) := rfl
theorem EncodeLength.srlcRnRm (n m : Reg) : EncodeLength.Statement (.srlcRnRm n m) := rfl
theorem EncodeLength.srlcRnWidth (n : Reg) (width : BitVec 3) : EncodeLength.Statement (.srlcRnWidth n width) := rfl
theorem EncodeLength.dsrPrefixImm8 (imm : BitVec 8) : EncodeLength.Statement (.dsrPrefixImm8 imm) := rfl
theorem EncodeLength.dsrPrefixRd (d : Reg) : EncodeLength.Statement (.dsrPrefixRd d) := rfl
theorem EncodeLength.dsrPrefixDsr : EncodeLength.Statement (.dsrPrefixDsr) := rfl
theorem EncodeLength.lRnEa (n : Reg) : EncodeLength.Statement (.lRnEa n) := rfl
theorem EncodeLength.lRnEaInc (n : Reg) : EncodeLength.Statement (.lRnEaInc n) := rfl
theorem EncodeLength.lRnErm (n m : Reg) : EncodeLength.Statement (.lRnErm n m) := rfl
theorem EncodeLength.lRnDisp16Erm (n m : Reg) (disp : Word) : EncodeLength.Statement (.lRnDisp16Erm n m disp) := rfl
theorem EncodeLength.lRnDisp6Bp (n : Reg) (disp : BitVec 6) : EncodeLength.Statement (.lRnDisp6Bp n disp) := rfl
theorem EncodeLength.lRnDisp6Fp (n : Reg) (disp : BitVec 6) : EncodeLength.Statement (.lRnDisp6Fp n disp) := rfl
theorem EncodeLength.lRnDadr (n : Reg) (dadr : Word) : EncodeLength.Statement (.lRnDadr n dadr) := rfl
theorem EncodeLength.lErnEa (n : Reg) : EncodeLength.Statement (.lErnEa n) := rfl
theorem EncodeLength.lErnEaInc (n : Reg) : EncodeLength.Statement (.lErnEaInc n) := rfl
theorem EncodeLength.lErnErm (n m : Reg) : EncodeLength.Statement (.lErnErm n m) := rfl
theorem EncodeLength.lErnDisp16Erm (n m : Reg) (disp : Word) : EncodeLength.Statement (.lErnDisp16Erm n m disp) := rfl
theorem EncodeLength.lErnDisp6Bp (n : Reg) (disp : BitVec 6) : EncodeLength.Statement (.lErnDisp6Bp n disp) := rfl
theorem EncodeLength.lErnDisp6Fp (n : Reg) (disp : BitVec 6) : EncodeLength.Statement (.lErnDisp6Fp n disp) := rfl
theorem EncodeLength.lErnDadr (n : Reg) (dadr : Word) : EncodeLength.Statement (.lErnDadr n dadr) := rfl
theorem EncodeLength.lXrnEa (n : Reg) : EncodeLength.Statement (.lXrnEa n) := rfl
theorem EncodeLength.lXrnEaInc (n : Reg) : EncodeLength.Statement (.lXrnEaInc n) := rfl
theorem EncodeLength.lQrnEa (n : Reg) : EncodeLength.Statement (.lQrnEa n) := rfl
theorem EncodeLength.lQrnEaInc (n : Reg) : EncodeLength.Statement (.lQrnEaInc n) := rfl
theorem EncodeLength.stRnEa (n : Reg) : EncodeLength.Statement (.stRnEa n) := rfl
theorem EncodeLength.stRnEaInc (n : Reg) : EncodeLength.Statement (.stRnEaInc n) := rfl
theorem EncodeLength.stRnErm (n m : Reg) : EncodeLength.Statement (.stRnErm n m) := rfl
theorem EncodeLength.stRnDisp16Erm (n m : Reg) (disp : Word) : EncodeLength.Statement (.stRnDisp16Erm n m disp) := rfl
theorem EncodeLength.stRnDisp6Bp (n : Reg) (disp : BitVec 6) : EncodeLength.Statement (.stRnDisp6Bp n disp) := rfl
theorem EncodeLength.stRnDisp6Fp (n : Reg) (disp : BitVec 6) : EncodeLength.Statement (.stRnDisp6Fp n disp) := rfl
theorem EncodeLength.stRnDadr (n : Reg) (dadr : Word) : EncodeLength.Statement (.stRnDadr n dadr) := rfl
theorem EncodeLength.stErnEa (n : Reg) : EncodeLength.Statement (.stErnEa n) := rfl
theorem EncodeLength.stErnEaInc (n : Reg) : EncodeLength.Statement (.stErnEaInc n) := rfl
theorem EncodeLength.stErnErm (n m : Reg) : EncodeLength.Statement (.stErnErm n m) := rfl
theorem EncodeLength.stErnDisp16Erm (n m : Reg) (disp : Word) : EncodeLength.Statement (.stErnDisp16Erm n m disp) := rfl
theorem EncodeLength.stErnDisp6Bp (n : Reg) (disp : BitVec 6) : EncodeLength.Statement (.stErnDisp6Bp n disp) := rfl
theorem EncodeLength.stErnDisp6Fp (n : Reg) (disp : BitVec 6) : EncodeLength.Statement (.stErnDisp6Fp n disp) := rfl
theorem EncodeLength.stErnDadr (n : Reg) (dadr : Word) : EncodeLength.Statement (.stErnDadr n dadr) := rfl
theorem EncodeLength.stXrnEa (n : Reg) : EncodeLength.Statement (.stXrnEa n) := rfl
theorem EncodeLength.stXrnEaInc (n : Reg) : EncodeLength.Statement (.stXrnEaInc n) := rfl
theorem EncodeLength.stQrnEa (n : Reg) : EncodeLength.Statement (.stQrnEa n) := rfl
theorem EncodeLength.stQrnEaInc (n : Reg) : EncodeLength.Statement (.stQrnEaInc n) := rfl
theorem EncodeLength.addSpSigned8 (imm : BitVec 8) : EncodeLength.Statement (.addSpSigned8 imm) := rfl
theorem EncodeLength.movEcsrRm (m : Reg) : EncodeLength.Statement (.movEcsrRm m) := rfl
theorem EncodeLength.movElrErm (m : Reg) : EncodeLength.Statement (.movElrErm m) := rfl
theorem EncodeLength.movEpswRm (m : Reg) : EncodeLength.Statement (.movEpswRm m) := rfl
theorem EncodeLength.movErnElr (n : Reg) : EncodeLength.Statement (.movErnElr n) := rfl
theorem EncodeLength.movErnSp (n : Reg) : EncodeLength.Statement (.movErnSp n) := rfl
theorem EncodeLength.movPswRm (m : Reg) : EncodeLength.Statement (.movPswRm m) := rfl
theorem EncodeLength.movPswUnsigned8 (imm : BitVec 8) : EncodeLength.Statement (.movPswUnsigned8 imm) := rfl
theorem EncodeLength.movRnEcsr (n : Reg) : EncodeLength.Statement (.movRnEcsr n) := rfl
theorem EncodeLength.movRnEpsw (n : Reg) : EncodeLength.Statement (.movRnEpsw n) := rfl
theorem EncodeLength.movRnPsw (n : Reg) : EncodeLength.Statement (.movRnPsw n) := rfl
theorem EncodeLength.movSpErm (m : Reg) : EncodeLength.Statement (.movSpErm m) := rfl
theorem EncodeLength.pushRn (n : Reg) : EncodeLength.Statement (.pushRn n) := rfl
theorem EncodeLength.pushErn (n : Reg) : EncodeLength.Statement (.pushErn n) := rfl
theorem EncodeLength.pushXrn (n : Reg) : EncodeLength.Statement (.pushXrn n) := rfl
theorem EncodeLength.pushQrn (n : Reg) : EncodeLength.Statement (.pushQrn n) := rfl
theorem EncodeLength.pushEa : EncodeLength.Statement (.pushEa) := rfl
theorem EncodeLength.pushElr : EncodeLength.Statement (.pushElr) := rfl
theorem EncodeLength.pushEaElr : EncodeLength.Statement (.pushEaElr) := rfl
theorem EncodeLength.pushEpsw : EncodeLength.Statement (.pushEpsw) := rfl
theorem EncodeLength.pushEaEpsw : EncodeLength.Statement (.pushEaEpsw) := rfl
theorem EncodeLength.pushElrEpsw : EncodeLength.Statement (.pushElrEpsw) := rfl
theorem EncodeLength.pushEaElrEpsw : EncodeLength.Statement (.pushEaElrEpsw) := rfl
theorem EncodeLength.pushLr : EncodeLength.Statement (.pushLr) := rfl
theorem EncodeLength.pushEaLr : EncodeLength.Statement (.pushEaLr) := rfl
theorem EncodeLength.pushElrLr : EncodeLength.Statement (.pushElrLr) := rfl
theorem EncodeLength.pushEaElrLr : EncodeLength.Statement (.pushEaElrLr) := rfl
theorem EncodeLength.pushEpswLr : EncodeLength.Statement (.pushEpswLr) := rfl
theorem EncodeLength.pushEaEpswLr : EncodeLength.Statement (.pushEaEpswLr) := rfl
theorem EncodeLength.pushElrEpswLr : EncodeLength.Statement (.pushElrEpswLr) := rfl
theorem EncodeLength.pushEaElrEpswLr : EncodeLength.Statement (.pushEaElrEpswLr) := rfl
theorem EncodeLength.popRn (n : Reg) : EncodeLength.Statement (.popRn n) := rfl
theorem EncodeLength.popErn (n : Reg) : EncodeLength.Statement (.popErn n) := rfl
theorem EncodeLength.popXrn (n : Reg) : EncodeLength.Statement (.popXrn n) := rfl
theorem EncodeLength.popQrn (n : Reg) : EncodeLength.Statement (.popQrn n) := rfl
theorem EncodeLength.popEa : EncodeLength.Statement (.popEa) := rfl
theorem EncodeLength.popPc : EncodeLength.Statement (.popPc) := rfl
theorem EncodeLength.popEaPc : EncodeLength.Statement (.popEaPc) := rfl
theorem EncodeLength.popPsw : EncodeLength.Statement (.popPsw) := rfl
theorem EncodeLength.popEaPsw : EncodeLength.Statement (.popEaPsw) := rfl
theorem EncodeLength.popPcPsw : EncodeLength.Statement (.popPcPsw) := rfl
theorem EncodeLength.popEaPcPsw : EncodeLength.Statement (.popEaPcPsw) := rfl
theorem EncodeLength.popLr : EncodeLength.Statement (.popLr) := rfl
theorem EncodeLength.popEaLr : EncodeLength.Statement (.popEaLr) := rfl
theorem EncodeLength.popPcLr : EncodeLength.Statement (.popPcLr) := rfl
theorem EncodeLength.popEaPcLr : EncodeLength.Statement (.popEaPcLr) := rfl
theorem EncodeLength.popPswLr : EncodeLength.Statement (.popPswLr) := rfl
theorem EncodeLength.popEaPswLr : EncodeLength.Statement (.popEaPswLr) := rfl
theorem EncodeLength.popPcPswLr : EncodeLength.Statement (.popPcPswLr) := rfl
theorem EncodeLength.popEaPcPswLr : EncodeLength.Statement (.popEaPcPswLr) := rfl
theorem EncodeLength.movCrnRm (n m : Reg) : EncodeLength.Statement (.movCrnRm n m) := rfl
theorem EncodeLength.movCrnEa (n : Reg) : EncodeLength.Statement (.movCrnEa n) := rfl
theorem EncodeLength.movCrnEaInc (n : Reg) : EncodeLength.Statement (.movCrnEaInc n) := rfl
theorem EncodeLength.movCernEa (n : Reg) : EncodeLength.Statement (.movCernEa n) := rfl
theorem EncodeLength.movCernEaInc (n : Reg) : EncodeLength.Statement (.movCernEaInc n) := rfl
theorem EncodeLength.movCxrnEa (n : Reg) : EncodeLength.Statement (.movCxrnEa n) := rfl
theorem EncodeLength.movCxrnEaInc (n : Reg) : EncodeLength.Statement (.movCxrnEaInc n) := rfl
theorem EncodeLength.movCqrnEa (n : Reg) : EncodeLength.Statement (.movCqrnEa n) := rfl
theorem EncodeLength.movCqrnEaInc (n : Reg) : EncodeLength.Statement (.movCqrnEaInc n) := rfl
theorem EncodeLength.movRnCrm (n m : Reg) : EncodeLength.Statement (.movRnCrm n m) := rfl
theorem EncodeLength.movEaCrm (m : Reg) : EncodeLength.Statement (.movEaCrm m) := rfl
theorem EncodeLength.movEaIncCrm (m : Reg) : EncodeLength.Statement (.movEaIncCrm m) := rfl
theorem EncodeLength.movEaCerm (m : Reg) : EncodeLength.Statement (.movEaCerm m) := rfl
theorem EncodeLength.movEaIncCerm (m : Reg) : EncodeLength.Statement (.movEaIncCerm m) := rfl
theorem EncodeLength.movEaCxrm (m : Reg) : EncodeLength.Statement (.movEaCxrm m) := rfl
theorem EncodeLength.movEaIncCxrm (m : Reg) : EncodeLength.Statement (.movEaIncCxrm m) := rfl
theorem EncodeLength.movEaCqrm (m : Reg) : EncodeLength.Statement (.movEaCqrm m) := rfl
theorem EncodeLength.movEaIncCqrm (m : Reg) : EncodeLength.Statement (.movEaIncCqrm m) := rfl
theorem EncodeLength.leaErm (m : Reg) : EncodeLength.Statement (.leaErm m) := rfl
theorem EncodeLength.leaDisp16Erm (m : Reg) (disp : Word) : EncodeLength.Statement (.leaDisp16Erm m disp) := rfl
theorem EncodeLength.leaDadr (dadr : Word) : EncodeLength.Statement (.leaDadr dadr) := rfl
theorem EncodeLength.daaRn (n : Reg) : EncodeLength.Statement (.daaRn n) := rfl
theorem EncodeLength.dasRn (n : Reg) : EncodeLength.Statement (.dasRn n) := rfl
theorem EncodeLength.negRn (n : Reg) : EncodeLength.Statement (.negRn n) := rfl
theorem EncodeLength.extbwEr0 : EncodeLength.Statement (.extbwEr0) := rfl
theorem EncodeLength.extbwEr2 : EncodeLength.Statement (.extbwEr2) := rfl
theorem EncodeLength.extbwEr4 : EncodeLength.Statement (.extbwEr4) := rfl
theorem EncodeLength.extbwEr6 : EncodeLength.Statement (.extbwEr6) := rfl
theorem EncodeLength.extbwEr8 : EncodeLength.Statement (.extbwEr8) := rfl
theorem EncodeLength.extbwEr10 : EncodeLength.Statement (.extbwEr10) := rfl
theorem EncodeLength.extbwEr12 : EncodeLength.Statement (.extbwEr12) := rfl
theorem EncodeLength.extbwEr14 : EncodeLength.Statement (.extbwEr14) := rfl
theorem EncodeLength.sbRnBit (n : Reg) (bit : BitVec 3) : EncodeLength.Statement (.sbRnBit n bit) := rfl
theorem EncodeLength.sbDbitadr (bit : BitVec 3) (dadr : Word) : EncodeLength.Statement (.sbDbitadr bit dadr) := rfl
theorem EncodeLength.rbRnBit (n : Reg) (bit : BitVec 3) : EncodeLength.Statement (.rbRnBit n bit) := rfl
theorem EncodeLength.rbDbitadr (bit : BitVec 3) (dadr : Word) : EncodeLength.Statement (.rbDbitadr bit dadr) := rfl
theorem EncodeLength.tbRnBit (n : Reg) (bit : BitVec 3) : EncodeLength.Statement (.tbRnBit n bit) := rfl
theorem EncodeLength.tbDbitadr (bit : BitVec 3) (dadr : Word) : EncodeLength.Statement (.tbDbitadr bit dadr) := rfl
theorem EncodeLength.ei : EncodeLength.Statement (.ei) := rfl
theorem EncodeLength.di : EncodeLength.Statement (.di) := rfl
theorem EncodeLength.sc : EncodeLength.Statement (.sc) := rfl
theorem EncodeLength.rc : EncodeLength.Statement (.rc) := rfl
theorem EncodeLength.cplc : EncodeLength.Statement (.cplc) := rfl
theorem EncodeLength.bgeRadr (disp : BitVec 8) : EncodeLength.Statement (.bgeRadr disp) := rfl
theorem EncodeLength.bltRadr (disp : BitVec 8) : EncodeLength.Statement (.bltRadr disp) := rfl
theorem EncodeLength.bgtRadr (disp : BitVec 8) : EncodeLength.Statement (.bgtRadr disp) := rfl
theorem EncodeLength.bleRadr (disp : BitVec 8) : EncodeLength.Statement (.bleRadr disp) := rfl
theorem EncodeLength.bgesRadr (disp : BitVec 8) : EncodeLength.Statement (.bgesRadr disp) := rfl
theorem EncodeLength.bltsRadr (disp : BitVec 8) : EncodeLength.Statement (.bltsRadr disp) := rfl
theorem EncodeLength.bgtsRadr (disp : BitVec 8) : EncodeLength.Statement (.bgtsRadr disp) := rfl
theorem EncodeLength.blesRadr (disp : BitVec 8) : EncodeLength.Statement (.blesRadr disp) := rfl
theorem EncodeLength.bneRadr (disp : BitVec 8) : EncodeLength.Statement (.bneRadr disp) := rfl
theorem EncodeLength.beqRadr (disp : BitVec 8) : EncodeLength.Statement (.beqRadr disp) := rfl
theorem EncodeLength.bnvRadr (disp : BitVec 8) : EncodeLength.Statement (.bnvRadr disp) := rfl
theorem EncodeLength.bovRadr (disp : BitVec 8) : EncodeLength.Statement (.bovRadr disp) := rfl
theorem EncodeLength.bpsRadr (disp : BitVec 8) : EncodeLength.Statement (.bpsRadr disp) := rfl
theorem EncodeLength.bnsRadr (disp : BitVec 8) : EncodeLength.Statement (.bnsRadr disp) := rfl
theorem EncodeLength.balRadr (disp : BitVec 8) : EncodeLength.Statement (.balRadr disp) := rfl
theorem EncodeLength.bCadr (g : BitVec 4) (cadr : Word) : EncodeLength.Statement (.bCadr g cadr) := rfl
theorem EncodeLength.bErn (n : Reg) : EncodeLength.Statement (.bErn n) := rfl
theorem EncodeLength.blCadr (g : BitVec 4) (cadr : Word) : EncodeLength.Statement (.blCadr g cadr) := rfl
theorem EncodeLength.blErn (n : Reg) : EncodeLength.Statement (.blErn n) := rfl
theorem EncodeLength.rt : EncodeLength.Statement (.rt) := rfl
theorem EncodeLength.rti : EncodeLength.Statement (.rti) := rfl
theorem EncodeLength.swiSnum (snum : BitVec 6) : EncodeLength.Statement (.swiSnum snum) := rfl
theorem EncodeLength.brk : EncodeLength.Statement (.brk) := rfl
theorem EncodeLength.mulErnRm (n m : Reg) : EncodeLength.Statement (.mulErnRm n m) := rfl
theorem EncodeLength.divErnRm (n m : Reg) : EncodeLength.Statement (.divErnRm n m) := rfl
theorem EncodeLength.incEa : EncodeLength.Statement (.incEa) := rfl
theorem EncodeLength.decEa : EncodeLength.Statement (.decEa) := rfl
theorem EncodeLength.nop : EncodeLength.Statement (.nop) := rfl

end Sys2Proof.Laws
end

