-- ==== Sys2Proof/Laws/Results.lean ====
section
/-! SUPPORT. The flag computations in the terms of Safety: what each status word says of its operands. -/
namespace Sys2Proof.Machine

theorem addN_ov8 (a b : BitVec 8) (cin : Bool) :
    (addN a b cin).ov = decide (a.toInt + b.toInt + cin.toNat < -2 ^ (8 - 1) ∨ 2 ^ (8 - 1) ≤ a.toInt + b.toInt + cin.toNat) := by
  have ha := a.isLt
  have hb := b.isLt
  rw [Bool.eq_iff_iff]
  simp only [addN, BitVec.msb_eq_decide, BitVec.toInt_eq_toNat_cond, BitVec.toNat_ofNat]
  cases cin <;> simp <;> omega

theorem addN_ov16 (a b : BitVec 16) (cin : Bool) :
    (addN a b cin).ov = decide (a.toInt + b.toInt + cin.toNat < -2 ^ (16 - 1) ∨ 2 ^ (16 - 1) ≤ a.toInt + b.toInt + cin.toNat) := by
  have ha := a.isLt
  have hb := b.isLt
  rw [Bool.eq_iff_iff]
  simp only [addN, BitVec.msb_eq_decide, BitVec.toInt_eq_toNat_cond, BitVec.toNat_ofNat]
  cases cin <;> simp <;> omega

theorem subN_ov8 (a b : BitVec 8) (bin : Bool) :
    (subN a b bin).ov = decide (a.toInt - b.toInt - bin.toNat < -2 ^ (8 - 1) ∨ 2 ^ (8 - 1) ≤ a.toInt - b.toInt - bin.toNat) := by
  have ha := a.isLt
  have hb := b.isLt
  rw [Bool.eq_iff_iff]
  simp only [subN, BitVec.msb_eq_decide, BitVec.toInt_eq_toNat_cond, BitVec.toNat_ofInt]
  cases bin <;> simp <;> omega

theorem subN_ov16 (a b : BitVec 16) (bin : Bool) :
    (subN a b bin).ov = decide (a.toInt - b.toInt - bin.toNat < -2 ^ (16 - 1) ∨ 2 ^ (16 - 1) ≤ a.toInt - b.toInt - bin.toNat) := by
  have ha := a.isLt
  have hb := b.isLt
  rw [Bool.eq_iff_iff]
  simp only [subN, BitVec.msb_eq_decide, BitVec.toInt_eq_toNat_cond, BitVec.toNat_ofInt]
  cases bin <;> simp <;> omega

/-- The status word of an 8-bit addition (00_scope.md R28). -/
theorem addFlags_putArith8 (p : Byte) (a b : BitVec 8) (cin : Bool) :
    addFlags p (putArith p (addN a b cin)) a b cin (decide ((addN a b cin).val = 0)) := by
  refine ⟨?_, ?_, ?_, ?_, ?_, ?_, ?_⟩ <;> simp [addN_ov8] <;> simp [addN]
  rfl

/-- The status word of a 16-bit addition (00_scope.md R28). -/
theorem addFlags_putArith16 (p : Byte) (a b : BitVec 16) (cin : Bool) :
    addFlags p (putArith p (addN a b cin)) a b cin (decide ((addN a b cin).val = 0)) := by
  refine ⟨?_, ?_, ?_, ?_, ?_, ?_, ?_⟩ <;> simp [addN_ov16] <;> simp [addN]
  rfl

/-- The status word of an 8-bit addition with the sticky Z (40_arithmetic.md R204). -/
theorem addFlags_putArithSticky (p : Byte) (a b : BitVec 8) (cin : Bool) :
    addFlags p (putArithSticky p (addN a b cin)) a b cin (decide ((addN a b cin).val = 0) && flagZ p) := by
  refine ⟨?_, ?_, ?_, ?_, ?_, ?_, ?_⟩ <;> simp [addN_ov8] <;> simp [addN, Bool.and_comm]
  rfl

/-- The status word of an 8-bit subtraction (00_scope.md R29). -/
theorem subFlags_putArith8 (p : Byte) (a b : BitVec 8) (bin : Bool) :
    subFlags p (putArith p (subN a b bin)) a b bin (decide ((subN a b bin).val = 0)) := by
  refine ⟨?_, ?_, ?_, ?_, ?_, ?_, ?_⟩ <;> simp [subN_ov8] <;> simp [subN]
  rfl

/-- The status word of a 16-bit subtraction (00_scope.md R29). -/
theorem subFlags_putArith16 (p : Byte) (a b : BitVec 16) (bin : Bool) :
    subFlags p (putArith p (subN a b bin)) a b bin (decide ((subN a b bin).val = 0)) := by
  refine ⟨?_, ?_, ?_, ?_, ?_, ?_, ?_⟩ <;> simp [subN_ov16] <;> simp [subN]
  rfl

/-- The status word of an 8-bit subtraction with the sticky Z (40_arithmetic.md R204). -/
theorem subFlags_putArithSticky (p : Byte) (a b : BitVec 8) (bin : Bool) :
    subFlags p (putArithSticky p (subN a b bin)) a b bin (decide ((subN a b bin).val = 0) && flagZ p) := by
  refine ⟨?_, ?_, ?_, ?_, ?_, ?_, ?_⟩ <;> simp [subN_ov8] <;> simp [subN, Bool.and_comm]
  rfl

/-- The status word of a result that sets Z and S (00_scope.md R30). -/
theorem zsFlags_putLogic {w : Nat} (p : Byte) (v : BitVec w) : zsFlags p (putLogic p v) (decide (v = 0)) v.msb := by
  refine ⟨?_, ?_, ?_, ?_, ?_, ?_, ?_⟩ <;> simp
  rfl

theorem cFlag_putC (p : Byte) (b : Bool) : cFlag p (putC p b) b := by
  refine ⟨?_, ?_, ?_, ?_, ?_, ?_, ?_⟩ <;> simp

theorem zFlag_putZ (p : Byte) (b : Bool) : zFlag p (putZ p b) b := by
  refine ⟨?_, ?_, ?_, ?_, ?_, ?_, ?_⟩ <;> simp

end Sys2Proof.Machine
end

