-- ==== Sys2Proof/Tests/Slice0.lean ====
section
/-! SUPPORT. Small tests, each on one word or one step, and one witness for the hypotheses of each statement. The
expected results are those of spec/95_test_vectors.md to 97_test_vectors_families_2.md, or are worked out from the rule
named. -/
namespace Sys2Proof.Tests
open Sys2Proof Sys2Proof.Machine

/-! Helpers -/

/-- The start state of 95_test_vectors.md: SP F000H, PC 1000H, the ROM window 0:0000H to 0:7FFFH, LARGE. -/
def start : State :=
  { State.reset with
    sp := 0xF000#16
    pc := 0x1000#16
    iblock := false
    entryBlock := false
    dev := { exampleDevice with romWindow := some (0x0000#16, 0x7FFF#16) } }

/-- The same in the SMALL model. -/
def startSmall : State :=
  { start with dev := { exampleDevice with memoryModel := .small, romWindow := some (0x0000#16, 0x7FFF#16) } }

/-- A state with general registers written. -/
def withR (s : State) (xs : List (Reg × Byte)) : State := xs.foldl (fun s x => s.setReg x.1 x.2) s

/-- A state with coprocessor registers written. -/
def withCr (s : State) (xs : List (Reg × Byte)) : State := xs.foldl (fun s x => s.setCreg x.1 x.2) s

/-- The outcome of the instruction with the words `w1` and `w2`. -/
def ran (w1 w2 : Word) (s : State) : Res State :=
  match decodeWords w1 w2 with
  | some i => exec i s
  | none => .refused .unlistedEncoding

/-- Whether it answers a next state with a property. -/
def gives (w1 w2 : Word) (s : State) (p : State → Bool) : Bool :=
  match ran w1 w2 s with
  | .next t => p t
  | _ => false

/-- Whether it is a fault. -/
def faults (w1 w2 : Word) (s : State) (f : Fault) : Bool :=
  match ran w1 w2 s with
  | .fault e => e == f
  | _ => false

/-- Whether it is a refusal. -/
def refuses (w1 w2 : Word) (s : State) (f : Refusal) : Bool :=
  match ran w1 w2 s with
  | .refused e => e == f
  | _ => false

/-- Whether each pair of words decodes to its instruction, which is well-formed. -/
def decodesAll (xs : List (Word × Word × Instr)) : Bool :=
  xs.all fun x => decodeWords x.1 x.2.1 == some x.2.2 && x.2.2.wf

/-! Well-formedness: each operand check refuses a term no word can hold (30_encoding.md R164) -/

theorem test_wf_refuses_odd_word_register : Instr.wf (.movErnErm 1 0) = false := by decide
theorem test_wf_refuses_odd_base_register : Instr.wf (.lRnErm 0 3) = false := by decide
theorem test_wf_refuses_unaligned_double_word_register : Instr.wf (.lXrnEa 2) = false := by decide
theorem test_wf_refuses_unaligned_quad_word_register : Instr.wf (.pushQrn 4) = false := by decide
theorem test_wf_refuses_odd_coprocessor_word_register : Instr.wf (.movCernEa 15) = false := by decide

/-! Decoding: one word for every row of the opcode table, written from its encoding -/

theorem test_decode_arithmetic : decodesAll [
    (0x8EB1#16, 0, .addRnRm 14 11), (0x1B93#16, 0, .addRnImm8 11 0x93#8), (0x8950#16, 0, .movRnRm 9 5),
    (0x05B5#16, 0, .movRnImm8 5 0xB5#8), (0x86E6#16, 0, .addcRnRm 6 14), (0x6E6E#16, 0, .addcRnImm8 14 0x6E#8),
    (0x8B97#16, 0, .cmpRnRm 11 9), (0x7993#16, 0, .cmpRnImm8 9 0x93#8), (0x8565#16, 0, .cmpcRnRm 5 6),
    (0x56B5#16, 0, .cmpcRnImm8 6 0xB5#8), (0x8EB2#16, 0, .andRnRm 14 11), (0x2B6E#16, 0, .andRnImm8 11 0x6E#8),
    (0x8953#16, 0, .orRnRm 9 5), (0x3593#16, 0, .orRnImm8 5 0x93#8), (0x86E4#16, 0, .xorRnRm 6 14),
    (0x4EB5#16, 0, .xorRnImm8 14 0xB5#8), (0x8B98#16, 0, .subRnRm 11 9), (0x8959#16, 0, .subcRnRm 9 5),
    (0xFA65#16, 0, .movErnErm 10 6), (0xEC2B#16, 0, .movErnImm7 12 0x2B#7), (0xFA66#16, 0, .addErnErm 10 6),
    (0xECAB#16, 0, .addErnImm7 12 0x2B#7), (0xFA67#16, 0, .cmpErnErm 10 6)] := by decide
theorem test_decode_shift : decodesAll [
    (0x856A#16, 0, .sllRnRm 5 6), (0x965A#16, 0, .sllRnWidth 6 0x5#3), (0x8EBB#16, 0, .sllcRnRm 14 11),
    (0x9B6B#16, 0, .sllcRnWidth 11 0x6#3), (0x895E#16, 0, .sraRnRm 9 5), (0x953E#16, 0, .sraRnWidth 5 0x3#3),
    (0x86EC#16, 0, .srlRnRm 6 14), (0x9E5C#16, 0, .srlRnWidth 14 0x5#3), (0x8B9D#16, 0, .srlcRnRm 11 9),
    (0x996D#16, 0, .srlcRnWidth 9 0x6#3)] := by decide
theorem test_decode_load_store_1 : decodesAll [
    (0xE36E#16, 0, .dsrPrefixImm8 0x6E#8), (0x90BF#16, 0, .dsrPrefixRd 11), (0xFE9F#16, 0, .dsrPrefixDsr),
    (0x9630#16, 0, .lRnEa 6), (0x9950#16, 0, .lRnEaInc 9), (0x9E20#16, 0, .lRnErm 14 2),
    (0x9B68#16, 0x92B4#16, .lRnDisp16Erm 11 6 0x92B4#16), (0xD916#16, 0, .lRnDisp6Bp 9 0x16#6),
    (0xD575#16, 0, .lRnDisp6Fp 5 0x35#6), (0x9610#16, 0x92B4#16, .lRnDadr 6 0x92B4#16), (0x9232#16, 0, .lErnEa 2),
    (0x9A52#16, 0, .lErnEaInc 10), (0x96C2#16, 0, .lErnErm 6 12),
    (0xA2A8#16, 0x92B4#16, .lErnDisp16Erm 2 10 0x92B4#16), (0xB635#16, 0, .lErnDisp6Bp 6 0x35#6),
    (0xB26D#16, 0, .lErnDisp6Fp 2 0x2D#6), (0x9612#16, 0x92B4#16, .lErnDadr 6 0x92B4#16), (0x9434#16, 0, .lXrnEa 4),
    (0x9854#16, 0, .lXrnEaInc 8), (0x9836#16, 0, .lQrnEa 8), (0x9856#16, 0, .lQrnEaInc 8),
    (0x9931#16, 0, .stRnEa 9), (0x9E51#16, 0, .stRnEaInc 14), (0x9561#16, 0, .stRnErm 5 6),
    (0x9629#16, 0x92B4#16, .stRnDisp16Erm 6 2 0x92B4#16), (0xDEB5#16, 0, .stRnDisp6Bp 14 0x35#6),
    (0xDBED#16, 0, .stRnDisp6Fp 11 0x2D#6), (0x9911#16, 0x92B4#16, .stRnDadr 9 0x92B4#16),
    (0x9633#16, 0, .stErnEa 6), (0x9C53#16, 0, .stErnEaInc 12)] := by decide
theorem test_decode_load_store_2 : decodesAll [
    (0x92A3#16, 0, .stErnErm 2 10), (0xA6C9#16, 0x92B4#16, .stErnDisp16Erm 6 12 0x92B4#16),
    (0xB2AD#16, 0, .stErnDisp6Bp 2 0x2D#6), (0xB6D6#16, 0, .stErnDisp6Fp 6 0x16#6),
    (0x9213#16, 0x92B4#16, .stErnDadr 2 0x92B4#16), (0x9C35#16, 0, .stXrnEa 12), (0x9455#16, 0, .stXrnEaInc 4),
    (0x9837#16, 0, .stQrnEa 8), (0x9857#16, 0, .stQrnEaInc 8)] := by decide
theorem test_decode_control_register : decodesAll [
    (0xE16E#16, 0, .addSpSigned8 0x6E#8), (0xA05F#16, 0, .movEcsrRm 5), (0xAC0D#16, 0, .movElrErm 12),
    (0xA06C#16, 0, .movEpswRm 6), (0xAA05#16, 0, .movErnElr 10), (0xA61A#16, 0, .movErnSp 6),
    (0xA05B#16, 0, .movPswRm 5), (0xE993#16, 0, .movPswUnsigned8 0x93#8), (0xA607#16, 0, .movRnEcsr 6),
    (0xA904#16, 0, .movRnEpsw 9), (0xAE03#16, 0, .movRnPsw 14), (0xA12A#16, 0, .movSpErm 2)] := by decide
theorem test_decode_push_pop_1 : decodesAll [
    (0xFB4E#16, 0, .pushRn 11), (0xF65E#16, 0, .pushErn 6), (0xFC6E#16, 0, .pushXrn 12), (0xF87E#16, 0, .pushQrn 8),
    (0xF1CE#16, 0, .pushEa), (0xF2CE#16, 0, .pushElr), (0xF3CE#16, 0, .pushEaElr), (0xF4CE#16, 0, .pushEpsw),
    (0xF5CE#16, 0, .pushEaEpsw), (0xF6CE#16, 0, .pushElrEpsw), (0xF7CE#16, 0, .pushEaElrEpsw),
    (0xF8CE#16, 0, .pushLr), (0xF9CE#16, 0, .pushEaLr), (0xFACE#16, 0, .pushElrLr), (0xFBCE#16, 0, .pushEaElrLr),
    (0xFCCE#16, 0, .pushEpswLr), (0xFDCE#16, 0, .pushEaEpswLr), (0xFECE#16, 0, .pushElrEpswLr),
    (0xFFCE#16, 0, .pushEaElrEpswLr), (0xF50E#16, 0, .popRn 5), (0xF61E#16, 0, .popErn 6),
    (0xF42E#16, 0, .popXrn 4), (0xF83E#16, 0, .popQrn 8), (0xF18E#16, 0, .popEa), (0xF28E#16, 0, .popPc),
    (0xF38E#16, 0, .popEaPc), (0xF48E#16, 0, .popPsw), (0xF58E#16, 0, .popEaPsw), (0xF68E#16, 0, .popPcPsw),
    (0xF78E#16, 0, .popEaPcPsw)] := by decide
theorem test_decode_push_pop_2 : decodesAll [
    (0xF88E#16, 0, .popLr), (0xF98E#16, 0, .popEaLr), (0xFA8E#16, 0, .popPcLr), (0xFB8E#16, 0, .popEaPcLr),
    (0xFC8E#16, 0, .popPswLr), (0xFD8E#16, 0, .popEaPswLr), (0xFE8E#16, 0, .popPcPswLr),
    (0xFF8E#16, 0, .popEaPcPswLr)] := by decide
theorem test_decode_coprocessor : decodesAll [
    (0xAEBE#16, 0, .movCrnRm 14 11), (0xFB0D#16, 0, .movCrnEa 11), (0xF61D#16, 0, .movCrnEaInc 6),
    (0xFA2D#16, 0, .movCernEa 10), (0xF63D#16, 0, .movCernEaInc 6), (0xFC4D#16, 0, .movCxrnEa 12),
    (0xF45D#16, 0, .movCxrnEaInc 4), (0xF86D#16, 0, .movCqrnEa 8), (0xF87D#16, 0, .movCqrnEaInc 8),
    (0xAEB6#16, 0, .movRnCrm 14 11), (0xFB8D#16, 0, .movEaCrm 11), (0xF69D#16, 0, .movEaIncCrm 6),
    (0xFCAD#16, 0, .movEaCerm 12), (0xF2BD#16, 0, .movEaIncCerm 2), (0xF4CD#16, 0, .movEaCxrm 4),
    (0xF8DD#16, 0, .movEaIncCxrm 8), (0xF8ED#16, 0, .movEaCqrm 8), (0xF8FD#16, 0, .movEaIncCqrm 8)] := by decide
theorem test_decode_lea_alu : decodesAll [
    (0xF0AA#16, 0, .leaErm 10), (0xF06B#16, 0x92B4#16, .leaDisp16Erm 6 0x92B4#16),
    (0xF00C#16, 0x92B4#16, .leaDadr 0x92B4#16), (0x8B1F#16, 0, .daaRn 11), (0x863F#16, 0, .dasRn 6),
    (0x895F#16, 0, .negRn 9), (0x810F#16, 0, .extbwEr0), (0x832F#16, 0, .extbwEr2), (0x854F#16, 0, .extbwEr4),
    (0x876F#16, 0, .extbwEr6), (0x898F#16, 0, .extbwEr8), (0x8BAF#16, 0, .extbwEr10), (0x8DCF#16, 0, .extbwEr12),
    (0x8FEF#16, 0, .extbwEr14)] := by decide
theorem test_decode_bit_psw : decodesAll [
    (0xAE50#16, 0, .sbRnBit 14 0x5#3), (0xA0D0#16, 0x92B4#16, .sbDbitadr 0x5#3 0x92B4#16),
    (0xA652#16, 0, .rbRnBit 6 0x5#3), (0xA0D2#16, 0x92B4#16, .rbDbitadr 0x5#3 0x92B4#16),
    (0xA551#16, 0, .tbRnBit 5 0x5#3), (0xA0D1#16, 0x92B4#16, .tbDbitadr 0x5#3 0x92B4#16), (0xED08#16, 0, .ei),
    (0xEBF7#16, 0, .di), (0xED80#16, 0, .sc), (0xEB7F#16, 0, .rc), (0xFECF#16, 0, .cplc)] := by decide
theorem test_decode_branch : decodesAll [
    (0xC06E#16, 0, .bgeRadr 0x6E#8), (0xC193#16, 0, .bltRadr 0x93#8), (0xC2B5#16, 0, .bgtRadr 0xB5#8),
    (0xC36E#16, 0, .bleRadr 0x6E#8), (0xC493#16, 0, .bgesRadr 0x93#8), (0xC5B5#16, 0, .bltsRadr 0xB5#8),
    (0xC66E#16, 0, .bgtsRadr 0x6E#8), (0xC793#16, 0, .blesRadr 0x93#8), (0xC8B5#16, 0, .bneRadr 0xB5#8),
    (0xC96E#16, 0, .beqRadr 0x6E#8), (0xCA93#16, 0, .bnvRadr 0x93#8), (0xCBB5#16, 0, .bovRadr 0xB5#8),
    (0xCC6E#16, 0, .bpsRadr 0x6E#8), (0xCD93#16, 0, .bnsRadr 0x93#8), (0xCEB5#16, 0, .balRadr 0xB5#8),
    (0xF900#16, 0x92B4#16, .bCadr 0x9#4 0x92B4#16), (0xF0C2#16, 0, .bErn 12),
    (0xF501#16, 0x92B4#16, .blCadr 0x5#4 0x92B4#16), (0xF0A3#16, 0, .blErn 10), (0xFE1F#16, 0, .rt),
    (0xFE0F#16, 0, .rti), (0xE516#16, 0, .swiSnum 0x16#6), (0xFFFF#16, 0, .brk)] := by decide
theorem test_decode_muldiv_misc : decodesAll [
    (0xFC54#16, 0, .mulErnRm 12 5), (0xFA69#16, 0, .divErnRm 10 6), (0xFE2F#16, 0, .incEa), (0xFE3F#16, 0, .decEa),
    (0xFE8F#16, 0, .nop)] := by decide

/-- Words that match no row of the opcode table are refused (30_encoding.md R185). -/
theorem test_decode_refuses_unlisted :
    ([0x800F#16, 0x870F#16, 0x9170#16, 0x9132#16, 0x9234#16, 0x918A#16, 0x912F#16, 0xA013#16, 0xA18D#16, 0xB100#16,
      0xCF00#16, 0xE540#16, 0xE700#16, 0xEB00#16, 0xED00#16, 0xF008#16, 0xF105#16, 0xF0CE#16, 0xF08E#16, 0xFE4F#16,
      0xFF0F#16].all fun w => decodeWords w 0 == none) = true := by decide

/-- The bits of a two-word row: the second word counts on from bit 16 (spec/opcode_table.json). -/
theorem test_decode_table_word : decodeTableWord 16 0x9168 = some (.lRnDisp16Erm 1 6 0) := by decide
theorem test_decode_table_second_word : decodeTableWord 32 0x3456F200 = some (.bCadr 2 0x3456#16) := by decide

/-! 40_arithmetic.md; the rows are of 96_test_vectors_families_1.md and 97_test_vectors_families_2.md -/

theorem test_add_r0_r1 : gives 0x8011#16 0 (withR start [(0, 0x7F#8), (1, 0x01#8)])
    fun t => t.psw == 0x34#8 && t.reg 0 == 0x80#8 := by decide
theorem test_add_r0_r1_2 : gives 0x8011#16 0 (withR start [(0, 0x80#8), (1, 0x80#8)])
    fun t => t.psw == 0xD0#8 && t.reg 0 == 0x00#8 := by decide
theorem test_addc_r1_r3 : gives 0x8136#16 0 { withR start [(1, 0xFF#8), (3, 0x00#8)] with psw := 0xC0#8 }
    fun t => t.psw == 0xC4#8 && t.reg 1 == 0x00#8 := by decide
theorem test_addc_r1_r3_2 : gives 0x8136#16 0 { withR start [(1, 0xFF#8), (3, 0x00#8)] with psw := 0x80#8 }
    fun t => t.psw == 0x84#8 && t.reg 1 == 0x00#8 := by decide
theorem test_sub_r0_r1 : gives 0x8018#16 0 (withR start [(0, 0x80#8), (1, 0x01#8)])
    fun t => t.psw == 0x14#8 && t.reg 0 == 0x7F#8 := by decide
theorem test_subc_r1_r3 : gives 0x8139#16 0 { withR start [(1, 0x10#8), (3, 0x0F#8)] with psw := 0xC0#8 }
    fun t => t.psw == 0x44#8 && t.reg 1 == 0x00#8 := by decide
theorem test_cmp_r0_7fh : gives 0x707F#16 0 (withR start [(0, 0x80#8)]) fun t => t.psw == 0x14#8 := by decide
theorem test_cmpc_r1_00h : gives 0x5100#16 0 { withR start [(1, 0x00#8)] with psw := 0x80#8 }
    fun t => t.psw == 0xA4#8 := by decide
theorem test_and_r0_r1 : gives 0x8012#16 0 { withR start [(0, 0xF0#8), (1, 0x0F#8)] with psw := 0x94#8 }
    fun t => t.psw == 0xD4#8 && t.reg 0 == 0x00#8 := by decide
theorem test_xor_r7_r7 : gives 0x8774#16 0 (withR start [(7, 0xA5#8)])
    fun t => t.psw == 0x40#8 && t.reg 7 == 0x00#8 := by decide
theorem test_mov_r3_r9 : gives 0x8390#16 0 { withR start [(9, 0x80#8)] with psw := 0x94#8 }
    fun t => t.psw == 0xB4#8 && t.reg 3 == 0x80#8 := by decide
theorem test_mov_er0_64 : gives 0xE040#16 0 (withR start [(0, 0x7F#8), (1, 0x00#8)])
    fun t => t.psw == 0x20#8 && t.reg 0 == 0xC0#8 && t.reg 1 == 0xFF#8 := by decide
theorem test_add_er0_er2 : gives 0xF026#16 0 (withR start [(0, 0xFF#8), (1, 0x7F#8), (2, 0x01#8), (3, 0x00#8)])
    fun t => t.psw == 0x34#8 && t.reg 0 == 0x00#8 && t.reg 1 == 0x80#8 := by decide
theorem test_add_er4_1 : gives 0xE4FF#16 0 (withR start [(4, 0x01#8), (5, 0x00#8)])
    fun t => t.psw == 0xC4#8 && t.reg 4 == 0x00#8 := by decide
theorem test_cmp_er0_er4 : gives 0xF047#16 0 (withR start [(0, 0x34#8), (1, 0x12#8), (4, 0x34#8), (5, 0x12#8)])
    fun t => t.psw == 0x40#8 := by decide

/-! 41_shift.md; the rows are of 96_test_vectors_families_1.md and 97_test_vectors_families_2.md -/

theorem test_sll_r0_1 : gives 0x901A#16 0 (withR start [(0, 0x81#8)])
    fun t => t.psw == 0x80#8 && t.reg 0 == 0x02#8 := by decide
theorem test_sll_r0_r5 : gives 0x805A#16 0 { withR start [(0, 0x11#8), (5, 0xF8#8)] with psw := 0x80#8 }
    fun t => t.psw == 0x80#8 := by decide
theorem test_sllc_r0_1 : gives 0x901B#16 0 (withR start [(0, 0x80#8), (15, 0x80#8)])
    fun t => t.psw == 0x80#8 && t.reg 0 == 0x01#8 := by decide
theorem test_sllc_r3_r5 : gives 0x835B#16 0 (withR start [(2, 0xFF#8), (3, 0xC1#8), (5, 0x02#8)])
    fun t => t.psw == 0x80#8 && t.reg 3 == 0x07#8 := by decide
theorem test_sra_r0_7 : gives 0x907E#16 0 (withR start [(0, 0x80#8)]) fun t => t.reg 0 == 0xFF#8 := by decide
theorem test_srl_r2_r2 : gives 0x822C#16 0 (withR start [(2, 0x93#8)]) fun t => t.reg 2 == 0x12#8 := by decide
theorem test_srlc_r15_1 : gives 0x9F1D#16 0 (withR start [(0, 0x01#8), (15, 0x01#8)])
    fun t => t.psw == 0x80#8 && t.reg 15 == 0x80#8 := by decide
theorem test_srlc_r0_r5 : gives 0x805D#16 0 (withR start [(0, 0x0F#8), (1, 0xAA#8), (5, 0x03#8)])
    fun t => t.psw == 0x80#8 && t.reg 0 == 0x41#8 := by decide

/-! 42_load_store.md; the rows are of 96_test_vectors_families_1.md and 97_test_vectors_families_2.md -/

theorem test_l_r0_at_ea : gives 0x9030#16 0 { withR start [(0, 0x55#8)] with ea := 0x8000#16, psw := 0x94#8 }
    fun t => t.psw == 0xD4#8 && t.reg 0 == 0x00#8 := by decide
theorem test_l_r3_at_ea_inc : gives 0x9350#16 0 { start with ea := 0xFFFF#16, mem := [(0xFFFF, 0x7F#8)] }
    fun t => t.reg 3 == 0x7F#8 && t.ea == 0x0000#16 := by decide
theorem test_l_r1_0ffffh_er2 :
    gives 0x9128#16 0xFFFF#16
      { withR start [(2, 0x01#8), (3, 0x90#8)] with mem := [(0x9000, 0x42#8)] }
      fun t => t.reg 1 == 0x42#8 := by decide
theorem test_l_r0_32_bp :
    gives 0xD020#16 0
      { withR start [(12, 0x20#8), (13, 0x90#8)] with mem := [(0x9000, 0x11#8)] }
      fun t => t.reg 0 == 0x11#8 := by decide
theorem test_l_r0_31_fp :
    gives 0xD05F#16 0
      { withR start [(14, 0x00#8), (15, 0x90#8)] with mem := [(0x901F, 0x22#8)] }
      fun t => t.reg 0 == 0x22#8 := by decide
theorem test_l_er0_at_ea_inc :
    gives 0x9052#16 0
      { start with ea := 0x8001#16, mem := [(0x8000, 0x34#8), (0x8001, 0x12#8)] }
      fun t => t.reg 0 == 0x34#8 && t.ea == 0x8002#16 := by decide
theorem test_l_er2_0010h_er4 : gives 0xA248#16 0x0010#16 (withR start [(4, 0x00#8), (5, 0x80#8)])
    fun t => t.psw == 0x40#8 := by decide
theorem test_l_xr4_at_ea :
    gives 0x9434#16 0
      { start with ea := 0x8000#16, mem := [(0x8000, 0x78#8), (0x8001, 0x56#8), (0x8002, 0x34#8), (0x8003, 0x92#8)] }
      fun t => t.psw == 0x20#8 && t.reg 4 == 0x78#8 && t.reg 7 == 0x92#8 := by decide
theorem test_l_qr8_at_ea :
    gives 0x9836#16 0
      { start with ea := 0x8000#16, mem := [(0x8000, 0x01#8), (0x8001, 0x02#8), (0x8002, 0x03#8), (0x8003, 0x04#8),
        (0x8004, 0x05#8), (0x8005, 0x06#8), (0x8006, 0x07#8), (0x8007, 0x08#8)] }
      fun t => t.reg 8 == 0x01#8 && t.reg 15 == 0x08#8 := by decide
theorem test_st_r0_at_ea_inc : gives 0x9051#16 0 { withR start [(0, 0xA5#8)] with ea := 0x8000#16 }
    fun t => t.ea == 0x8001#16 && t.mem.read 0x8000 == 0xA5#8 := by decide
theorem test_st_r1_8001h_er2 : gives 0x9129#16 0x8001#16 (withR start [(1, 0x42#8), (2, 0xFF#8), (3, 0xFF#8)])
    fun t => t.mem.read 0x8000 == 0x42#8 := by decide
theorem test_st_er2_0fffeh_er4 :
    gives 0xA249#16 0xFFFE#16
      (withR start [(2, 0xEF#8), (3, 0xBE#8), (4, 0x02#8), (5, 0x80#8)])
      fun t => t.mem.read 0x8000 == 0xEF#8 && t.mem.read 0x8001 == 0xBE#8 := by decide
theorem test_st_xr0_at_ea_inc :
    gives 0x9055#16 0
      { withR start [(0, 0x04#8), (1, 0x03#8), (2, 0x02#8), (3, 0x01#8)] with ea := 0x8003#16 }
      fun t => t.ea == 0x8006#16 && t.mem.read 0x8002 == 0x04#8 := by decide
theorem test_st_r0_at_ea : faults 0x9031#16 0 { withR start [(0, 0x01#8)] with ea := 0x0100#16 } .writeRomWindow :=
    by decide

/-! 43_control_register.md; the rows are of 96_test_vectors_families_1.md and 97_test_vectors_families_2.md -/

theorem test_add_sp_128 : gives 0xE180#16 0 { start with sp := 0x0010#16 }
    fun t => t.sp == 0xFF90#16 := by decide
theorem test_mov_sp_er2 : gives 0xA12A#16 0 (withR start [(2, 0xFE#8), (3, 0xEF#8)])
    fun t => t.sp == 0xEFFE#16 := by decide
theorem test_mov_er4_sp : gives 0xA41A#16 0 { start with sp := 0xEFF0#16, psw := 0x40#8 }
    fun t => t.reg 4 == 0xF0#8 && t.reg 5 == 0xEF#8 && t.psw == 0x40#8 := by decide
theorem test_mov_psw_r0 : gives 0xA00B#16 0 (withR start [(0, 0xFF#8)]) fun t => t.psw == 0xFF#8 := by decide
theorem test_mov_elr_er2 : gives 0xA20D#16 0 { withR start [(2, 0x45#8), (3, 0x23#8)] with psw := 0x00#8 }
    fun t => t.lr == 0x2344#16 && t.psw == 0x00#8 := by decide
theorem test_mov_elr_er2_2 : gives 0xA20D#16 0 { withR start [(2, 0x46#8), (3, 0x23#8)] with psw := 0x03#8 }
    fun t => t.elr3 == 0x2346#16 && t.psw == 0x03#8 := by decide
theorem test_mov_er6_elr :
    gives 0xA605#16 0
      { start with lr := 0x1110#16, elr1 := 0x2220#16, elr2 := 0x3330#16, elr3 := 0x4440#16, psw := 0x02#8 }
      fun t => t.reg 6 == 0x30#8 && t.reg 7 == 0x33#8 && t.psw == 0x02#8 := by decide
theorem test_mov_ecsr_r3 : gives 0xA03F#16 0 { withR start [(3, 0xA7#8)] with psw := 0x01#8 }
    fun t => t.ecsr1 == 0x7#4 && t.psw == 0x01#8 := by decide
theorem test_mov_r3_ecsr :
    gives 0xA307#16 0
      { withR start [(3, 0xFF#8)] with lcsr := 0x1#4, ecsr1 := 0x2#4, ecsr2 := 0x3#4, ecsr3 := 0x4#4, psw := 0x03#8 }
      fun t => t.reg 3 == 0x04#8 && t.psw == 0x03#8 := by decide
theorem test_mov_r3_ecsr_2 :
    gives 0xA307#16 0
      { withR start [(3, 0xFF#8)] with lcsr := 0x1#4, ecsr1 := 0x2#4, psw := 0x00#8 }
      fun t => t.reg 3 == 0x01#8 && t.psw == 0x00#8 := by decide
theorem test_mov_epsw_r0 : gives 0xA00C#16 0 { withR start [(0, 0x5A#8)] with psw := 0x00#8 }
    fun t => t.psw == 0x00#8 := by decide
theorem test_mov_r0_epsw : gives 0xA004#16 0 { withR start [(0, 0x77#8)] with epsw2 := 0x22#8, psw := 0x02#8 }
    fun t => t.reg 0 == 0x22#8 && t.psw == 0x02#8 := by decide

/-! 44_push_pop.md; the rows are of 96_test_vectors_families_1.md and 97_test_vectors_families_2.md -/

theorem test_push_er2 : gives 0xF25E#16 0 (withR start [(2, 0x34#8), (3, 0x12#8)])
    fun t => t.sp == 0xEFFE#16 && t.mem.read 0xEFFE == 0x34#8 := by decide
theorem test_push_qr8 :
    gives 0xF87E#16 0
      (withR start [(8, 0x01#8), (9, 0x02#8), (10, 0x03#8), (11, 0x04#8), (12, 0x05#8), (13, 0x06#8), (14, 0x07#8),
        (15, 0x08#8)])
      fun t => t.sp == 0xEFF8#16 && t.mem.read 0xEFF8 == 0x01#8 := by decide
theorem test_push_er0 : gives 0xF05E#16 0 { withR start [(0, 0xEF#8), (1, 0xBE#8)] with sp := 0x0000#16 }
    fun t => t.sp == 0xFFFE#16 && t.mem.read 0xFFFE == 0xEF#8 := by decide
theorem test_pop_r3 : gives 0xF30E#16 0 { start with sp := 0xEFFE#16, mem := [(0xEFFE, 0xAB#8), (0xEFFF, 0xCD#8)] }
    fun t => t.reg 3 == 0xAB#8 && t.sp == 0xF000#16 := by decide
theorem test_pop_xr4 :
    gives 0xF42E#16 0
      { start with sp := 0xEFFC#16, mem := [(0xEFFC, 0x78#8), (0xEFFD, 0x56#8), (0xEFFE, 0x34#8), (0xEFFF, 0x12#8)] }
      fun t => t.reg 4 == 0x78#8 && t.sp == 0xF000#16 := by decide
theorem test_push_ea : gives 0xF1CE#16 0 { start with ea := 0x55AA#16 }
    fun t => t.sp == 0xEFFE#16 && t.mem.read 0xEFFE == 0xAA#8 := by decide
theorem test_pop_lr :
    gives 0xF88E#16 0
      { start with sp := 0xEFFC#16, mem := [(0xEFFC, 0x35#8), (0xEFFD, 0x12#8), (0xEFFE, 0xF7#8)] }
      fun t => t.sp == 0xF000#16 && t.lr == 0x1234#16 := by decide
theorem test_pop_lr_small :
    gives 0xF88E#16 0
      { startSmall with sp := 0xEFFE#16, mem := [(0xEFFE, 0x34#8), (0xEFFF, 0x12#8)] }
      fun t => t.sp == 0xF000#16 && t.lr == 0x1234#16 := by decide
theorem test_pop_pc : gives 0xF28E#16 0 { start with sp := 0xEFFC#16, mem := [(0xEFFD, 0x20#8), (0xEFFE, 0x01#8)] }
    fun t => t.pc == 0x2000#16 && t.csr == 0x1#4 && t.sp == 0xF000#16 := by decide
theorem test_pop_psw : gives 0xF48E#16 0 { start with sp := 0xEFFE#16, psw := 0x02#8, mem := [(0xEFFE, 0x89#8)] }
    fun t => t.psw == 0x89#8 && t.sp == 0xF000#16 := by decide
theorem test_pop_pc_psw :
    gives 0xF68E#16 0
      { start with sp := 0xEFFA#16, psw := 0x01#8, mem := [(0xEFFA, 0x08#8), (0xEFFC, 0x46#8), (0xEFFD, 0x13#8),
        (0xEFFE, 0x02#8)] }
      fun t => t.psw == 0x08#8 && t.pc == 0x1346#16 && t.csr == 0x2#4 && t.sp == 0xF000#16 := by decide
theorem test_pop_ea_pc_psw_lr_small :
    gives 0xFF8E#16 0
      { startSmall with sp := 0xEFF8#16, psw := 0x01#8, mem := [(0xEFF8, 0x5E#8), (0xEFF9, 0xEA#8), (0xEFFA, 0x10#8),
        (0xEFFB, 0x11#8), (0xEFFC, 0x33#8), (0xEFFE, 0x20#8), (0xEFFF, 0x22#8)] }
      fun t => t.psw == 0x33#8 && t.pc == 0x2220#16 && t.sp == 0xF000#16 && t.ea == 0xEA5E#16 := by decide

/-! 45_coprocessor.md; the rows are of 96_test_vectors_families_1.md and 97_test_vectors_families_2.md -/

theorem test_mov_cr3_r1 : gives 0xA31E#16 0 { withR start [(1, 0x80#8)] with psw := 0x40#8 }
    fun t => t.creg 3 == 0x80#8 && t.psw == 0x40#8 := by decide
theorem test_mov_r1_cr3 : gives 0xA136#16 0 (withCr (withR start [(1, 0x55#8)]) [(3, 0x00#8)])
    fun t => t.reg 1 == 0x00#8 := by decide
theorem test_mov_cer2_at_ea :
    gives 0xF22D#16 0
      { start with ea := 0x8001#16, mem := [(0x8000, 0x34#8), (0x8001, 0x12#8)] }
      fun t => t.creg 2 == 0x34#8 && t.creg 3 == 0x12#8 := by decide
theorem test_mov_cxr4_at_ea_inc :
    gives 0xF45D#16 0
      { start with ea := 0x8000#16, mem := [(0x8000, 0x01#8), (0x8001, 0x02#8), (0x8002, 0x03#8), (0x8003, 0x04#8)] }
      fun t => t.creg 4 == 0x01#8 && t.ea == 0x8004#16 := by decide
theorem test_mov_at_ea_inc_cer6 : gives 0xF6BD#16 0 { withCr start [(6, 0x34#8), (7, 0x12#8)] with ea := 0x8001#16 }
    fun t => t.ea == 0x8002#16 && t.mem.read 0x8000 == 0x34#8 := by decide
theorem test_mov_at_ea_cqr8 :
    gives 0xF8ED#16 0
      { withCr start [(8, 0x01#8), (9, 0x02#8), (10, 0x03#8), (11, 0x04#8), (12, 0x05#8), (13, 0x06#8), (14, 0x07#8),
        (15, 0x08#8)] with ea := 0x8000#16 }
      fun t => t.mem.read 0x8000 == 0x01#8 && t.mem.read 0x8007 == 0x08#8 := by decide

/-! 46_lea_alu.md; the rows are of 96_test_vectors_families_1.md and 97_test_vectors_families_2.md -/

theorem test_lea_1000h_er2 : gives 0xF02B#16 0x1000#16 (withR start [(2, 0x00#8), (3, 0xF8#8)])
    fun t => t.ea == 0x0800#16 := by decide
theorem test_lea_55aah : gives 0xF00C#16 0x55AA#16 start fun t => t.ea == 0x55AA#16 := by decide
theorem test_daa_r0 : gives 0x801F#16 0 { withR start [(0, 0xA0#8)] with psw := 0x00#8 }
    fun t => t.psw == 0xC0#8 && t.reg 0 == 0x00#8 := by decide
theorem test_daa_r0_2 : gives 0x801F#16 0 { withR start [(0, 0x32#8)] with psw := 0x84#8 }
    fun t => t.psw == 0xA0#8 && t.reg 0 == 0x98#8 := by decide
theorem test_das_r0 : gives 0x803F#16 0 { withR start [(0, 0xF0#8)] with psw := 0x80#8 }
    fun t => t.psw == 0xA0#8 && t.reg 0 == 0x90#8 := by decide
theorem test_neg_r0 : gives 0x805F#16 0 (withR start [(0, 0x80#8)]) fun t => t.psw == 0xB0#8 := by decide
theorem test_extbw_er0 : gives 0x810F#16 0 (withR start [(0, 0x80#8), (1, 0x12#8)])
    fun t => t.psw == 0x20#8 && t.reg 1 == 0xFF#8 := by decide
theorem test_extbw_er14 : gives 0x8FEF#16 0 { withR start [(14, 0x00#8), (15, 0xFF#8)] with psw := 0x20#8 }
    fun t => t.psw == 0x40#8 && t.reg 15 == 0x00#8 := by decide

/-! 47_bit_psw.md; the rows are of 96_test_vectors_families_1.md and 97_test_vectors_families_2.md -/

theorem test_sb_r3_2 : gives 0xA320#16 0 (withR start [(3, 0x00#8)])
    fun t => t.psw == 0x40#8 && t.reg 3 == 0x04#8 := by decide
theorem test_rb_r0_7 : gives 0xA072#16 0 (withR start [(0, 0x7F#8)]) fun t => t.psw == 0x40#8 := by decide
theorem test_tb_r0_0 : gives 0xA001#16 0 { withR start [(0, 0xFE#8)] with psw := 0xB4#8 }
    fun t => t.psw == 0xF4#8 := by decide
theorem test_sb_8100h_7 : gives 0xA0F0#16 0x8100#16 { start with mem := [(0x8100, 0x01#8)] }
    fun t => t.psw == 0x40#8 && t.mem.read 0x8100 == 0x81#8 := by decide
theorem test_rb_8100h_1 : gives 0xA092#16 0x8100#16 { start with mem := [(0x8100, 0x01#8)] }
    fun t => t.psw == 0x40#8 := by decide
theorem test_tb_0100h_3 : gives 0xA0B1#16 0x0100#16 start fun t => t.psw == 0x40#8 := by decide
theorem test_sb_0100h_3 : faults 0xA0B0#16 0x0100#16 start .writeRomWindow := by decide
theorem test_ei : gives 0xED08#16 0 { start with psw := 0x00#8 } fun t => t.psw == 0x08#8 := by decide
theorem test_di : gives 0xEBF7#16 0 { start with psw := 0xFF#8 } fun t => t.psw == 0xF7#8 := by decide
theorem test_sc : gives 0xED80#16 0 { start with psw := 0x00#8 } fun t => t.psw == 0x80#8 := by decide
theorem test_rc : gives 0xEB7F#16 0 { start with psw := 0xFF#8 } fun t => t.psw == 0x7F#8 := by decide
theorem test_cplc : gives 0xFECF#16 0 { start with psw := 0x80#8 } fun t => t.psw == 0x00#8 := by decide

/-! 48_branch.md; the rows are of 96_test_vectors_families_1.md and 97_test_vectors_families_2.md -/

theorem test_beq_inc5 : gives 0xC905#16 0 { start with psw := 0x00#8 }
    fun t => t.psw == 0x00#8 := by decide
theorem test_bal_128 : gives 0xCE80#16 0 start fun t => t.psw == 0x00#8 && t.pc == 0x0F02#16 := by decide
theorem test_bne_2 : gives 0xC8FE#16 0 { start with pc := 0x0000#16, csr := 0x1#4 }
    fun t => t.psw == 0x00#8 && t.pc == 0xFFFE#16 := by decide
theorem test_bal_inc1 : gives 0xCE01#16 0 { start with pc := 0xFFFE#16, csr := 0x1#4 }
    fun t => t.psw == 0x00#8 && t.pc == 0x0002#16 := by decide
theorem test_b_0_3457h : gives 0xF000#16 0x3457#16 start
    fun t => t.psw == 0x00#8 && t.pc == 0x3456#16 := by decide
theorem test_bl_1_2000h : gives 0xF101#16 0x2000#16 { start with lr := 0xAAAA#16, lcsr := 0xA#4 }
    fun t => t.pc == 0x2000#16 && t.csr == 0x1#4 && t.lr == 0x1004#16 := by decide
theorem test_bl_0_2000h_small : gives 0xF001#16 0x2000#16 { startSmall with lr := 0xAAAA#16 }
    fun t => t.pc == 0x2000#16 && t.lr == 0x1004#16 := by decide
theorem test_bl_1_2000h_small : refuses 0xF101#16 0x2000#16 startSmall .segmentOutsideSmall := by decide
theorem test_bl_er4 : gives 0xF043#16 0 { withR start [(4, 0x00#8), (5, 0x20#8)] with csr := 0x2#4, lcsr := 0x0#4 }
    fun t => t.pc == 0x2000#16 && t.lr == 0x1002#16 && t.lcsr == 0x2#4 := by decide
theorem test_rt : gives 0xFE1F#16 0 { start with lr := 0x1238#16, lcsr := 0x2#4 }
    fun t => t.pc == 0x1238#16 && t.csr == 0x2#4 := by decide
theorem test_rti : gives 0xFE0F#16 0 { start with psw := 0x01#8, elr1 := 0x1238#16, ecsr1 := 0x1#4, epsw1 := 0x88#8 }
    fun t => t.psw == 0x88#8 && t.pc == 0x1238#16 && t.csr == 0x1#4 := by decide
theorem test_rti_2 :
    gives 0xFE0F#16 0
      { start with psw := 0x02#8, elr2 := 0x1238#16, ecsr2 := 0x0#4, epsw2 := 0x09#8, elr1 := 0x4444#16 }
      fun t => t.psw == 0x09#8 && t.pc == 0x1238#16 := by decide
theorem test_rti_3 : refuses 0xFE0F#16 0 { start with psw := 0x00#8 } .rtiAtLevel0 := by decide
theorem test_swi_0 : gives 0xE500#16 0 { start with psw := 0xC8#8, csr := 0x1#4, mem := [(0x1000081, 0x30#8)] }
    fun t => t.psw == 0xC1#8 && t.pc == 0x3000#16 && t.csr == 0x0#4 && t.elr1 == 0x1002#16 := by decide
theorem test_swi_1 :
    gives 0xE501#16 0
      { start with psw := 0x0A#8, elr1 := 0x7770#16, epsw1 := 0x77#8, mem := [(0x1000083, 0x30#8)] }
      fun t => t.psw == 0x01#8 && t.pc == 0x3000#16 && t.elr1 == 0x1002#16 && t.epsw1 == 0x0A#8 := by decide
theorem test_brk : gives 0xFFFF#16 0 { start with psw := 0x08#8, csr := 0x1#4, mem := [(0x1000005, 0x40#8)] }
    fun t => t.psw == 0x0A#8 && t.pc == 0x4000#16 && t.csr == 0x0#4 && t.elr2 == 0x1002#16 := by decide

/-! 49_muldiv_misc.md; the rows are of 96_test_vectors_families_1.md and 97_test_vectors_families_2.md -/

theorem test_mul_er0_r2 : gives 0xF024#16 0 (withR start [(0, 0xFF#8), (1, 0x77#8), (2, 0xFF#8)])
    fun t => t.reg 0 == 0x01#8 && t.reg 1 == 0xFE#8 := by decide
theorem test_mul_er0_r1 : gives 0xF014#16 0 (withR start [(0, 0x0C#8), (1, 0x05#8)])
    fun t => t.reg 0 == 0x3C#8 && t.reg 1 == 0x00#8 := by decide
theorem test_div_er0_r2 : gives 0xF029#16 0 { withR start [(0, 0x34#8), (1, 0x12#8), (2, 0x10#8)] with psw := 0x80#8 }
    fun t => t.psw == 0x00#8 && t.reg 0 == 0x23#8 && t.reg 2 == 0x04#8 := by decide
theorem test_div_er0_r2_2 : gives 0xF029#16 0 (withR start [(0, 0xFE#8), (1, 0x00#8), (2, 0xFF#8)])
    fun t => t.psw == 0x40#8 && t.reg 0 == 0x00#8 && t.reg 2 == 0xFE#8 := by decide
theorem test_div_er0_r1 : refuses 0xF019#16 0 (withR start [(0, 0x02#8), (1, 0x03#8)]) .divisorInsideDividend := by
    decide
theorem test_inc_at_ea : gives 0xFE2F#16 0 { start with ea := 0x8000#16, mem := [(0x8000, 0x7F#8)] }
    fun t => t.psw == 0x34#8 && t.mem.read 0x8000 == 0x80#8 := by decide
theorem test_dec_at_ea : gives 0xFE3F#16 0 { start with ea := 0x8000#16 }
    fun t => t.psw == 0x24#8 && t.mem.read 0x8000 == 0xFF#8 := by decide
theorem test_nop : gives 0xFE8F#16 0 { start with psw := 0xFF#8 }
    fun t => t.psw == 0xFF#8 := by decide

/-! Free values: what an instruction does beside them (log 6) -/

theorem test_push_elr_epsw_small : gives 0xF6CE#16 0 { startSmall with psw := 0x02#8 }
    fun t => t.sp == 0xEFFC#16 && t.draws == 1 := by decide
theorem test_div_by_zero : gives 0xF029#16 0 { withR start [(0, 0x34#8), (1, 0x12#8)] with psw := 0x40#8 }
    fun t => t.pc == 0x1002#16 && t.draws == 1 := by decide

/-! One step, with the boundary and the fetch (97_test_vectors_families_2.md, B12 and B13) -/

/-- The state with the instruction of one word placed where step fetches. -/
def placed (s : State) (w : Nat) : State := s.withFetchWord 16 w

/-- Whether the next step answers a next state with a property. -/
def steps (s : State) (p : State → Bool) : Bool :=
  match step s with
  | .next t => p t
  | _ => false

/-- The vector table of the words 0A00H for the first maskable source and 0900H for NMI. -/
def vectors : Memory := [(0x1000009, 0x09#8), (0x100000B, 0x0A#8)]

theorem test_first_step_after_reset : steps (placed State.reset 0xFE8F) fun t => t.pc == 0x0002#16 && !t.iblock && !t.entryBlock :=
    by decide
theorem test_step_runs_the_placed_word : steps (placed start 0x0007) fun t => t.reg 0 == 0x07#8 && t.pc == 0x1002#16 := by
  decide
theorem test_step_accepts_nmi : steps { start with req := [.nmi], mem := vectors }
    fun t => t.pc == 0x0900#16 && t.elr2 == 0x1000#16 && t.psw == 0x02#8 && t.iblock && t.entryBlock := by decide
theorem test_step_accepts_mi : steps { start with psw := 0x08#8, req := [.mi 0], mem := vectors }
    fun t => t.pc == 0x0A00#16 && t.epsw1 == 0x08#8 && t.psw == 0x01#8 && t.req == [] := by decide
theorem test_step_leaves_mi_at_level_2 :
    steps { placed start 0xFE8F with psw := 0x0A#8, req := [.mi 0], iblock := false }
      fun t => t.pc == 0x1002#16 && t.req == [.mi 0] := by decide
theorem test_step_blocks_nmi_after_prefix :
    steps { placed start 0xFE8F with req := [.nmi], iblock := true, pfx := true }
      fun t => t.pc == 0x1002#16 && t.req == [.nmi] := by decide
theorem test_prefix_word_latches :
    gives 0xE301#16 0 { start with iblock := true, entryBlock := true }
      fun t => t.dsr == 0x01#8 && t.pfx && t.iblock && !t.entryBlock := by decide
theorem test_step_removes_every_copy_of_nmi : steps { start with req := [.nmi, .mi 3, .nmi], mem := vectors }
    fun t => t.req == [.mi 3] := by decide
theorem test_step_accepts_the_first_source_in_order :
    steps { start with psw := 0x08#8, req := [.mi 9, .mi 0], mem := vectors }
      fun t => t.pc == 0x0A00#16 && t.req == [.mi 9] && t.draws == 1 := by decide

/-! Witnesses: a concrete state and operands for the hypotheses of each statement that has some -/

/-- An idle state: a NOP is next, nothing is pending. -/
def idle : State := placed State.reset 0xFE8F

theorem idle_inv : Inv idle :=
  by constructor <;> decide

/-- `start` at level 1, with a level-1 frame. -/
def nested : State := { start with psw := 0x01#8, elr1 := 0x2468#16, ecsr1 := 3, epsw1 := 0x88#8 }

theorem nested_inv : Inv nested :=
  by constructor <;> decide

theorem small_inv : Inv startSmall :=
  by constructor <;> decide

theorem witness_step_keeps_invariant : Inv idle ∧ ∃ t, step idle = .next t := ⟨idle_inv, _, rfl⟩

theorem witness_step_keeps_invariant_at_acceptance :
    Inv { nested with req := [.nmi] } ∧ ∃ t, step { nested with req := [.nmi] } = .next t :=
  ⟨by constructor <;> decide, _, rfl⟩

theorem witness_step_keeps_device : ∃ t, step { start with resetIn := true } = .next t := ⟨_, rfl⟩

/-- A one-word instruction at the start of its segment. -/
theorem witness_step_runs_decoded_one_word :
    idle.boundary = .run idle ∧ idle.pc &&& 0xFFFE#16 = idle.pc ∧ fetchable idle idle.fetchSeg idle.pc (Instr.size .nop) ∧
      decode ((codeKeysOf idle.fetchSeg idle.pc (Instr.size .nop)).map idle.mem.read) = .ok (.nop, []) := by
  refine ⟨by rfl, by decide, ?_, by decide⟩
  unfold fetchable; decide

/-- A two-word instruction whose second word has wrapped to the start of the segment. -/
def wrapping : State := State.withFetchWord { State.reset with pc := 0xFFFE#16 } 32 0x3456F200

theorem witness_step_runs_decoded_two_words :
    wrapping.boundary = .run wrapping ∧ wrapping.pc &&& 0xFFFE#16 = wrapping.pc ∧
      fetchable wrapping wrapping.fetchSeg wrapping.pc (Instr.size (.bCadr 2 0x3456#16)) ∧
      decode ((codeKeysOf wrapping.fetchSeg wrapping.pc (Instr.size (.bCadr 2 0x3456#16))).map wrapping.mem.read) =
        .ok (.bCadr 2 0x3456#16, []) := by
  refine ⟨by rfl, by decide, ?_, by decide⟩
  unfold fetchable; decide

/-! Devices: what the device answers is free, so these look at nothing that depends on it (log 8) -/

/-- `start` with a device of four bytes at 8000H and, elsewhere, writable memory in every data and code segment. -/
def gadget : State :=
  { start with
    sp := 0x8002#16
    ea := 0x8002#16
    dev := { exampleDevice with
      romWindow := none, memMap := [⟨0x8000, 0x8003, .device⟩, ⟨0, 0xFFFFFF, .ram⟩, ⟨0x1000000, 0x100FFFF, .rom⟩] } }

theorem test_load_from_device : gives 0x9036#16 0 { gadget with mem := [(0x8009, 0x80#8)] }
    fun t => t.draws == 2 && t.reg 7 == 0x80#8 && t.ar == 0x8002#16 := by decide
theorem test_store_to_device :
    gives 0x9035#16 0 (withR { gadget with ea := 0x8003#16 } [(0, 1#8), (1, 2#8), (2, 3#8), (3, 4#8)])
      fun t => t.mem == [(0x8004, 3#8), (0x8005, 4#8)] && t.draws == 0 := by decide
theorem test_increment_device : gives 0xFE2F#16 0 gadget
    fun t => t.draws == 1 && t.mem == [] && t.ar == 0x8002#16 := by decide

/-- A device with nothing but one device byte, a ROM byte, a read-only device byte and a window of one byte. -/
def sparse : State :=
  { start with
    dev := { exampleDevice with
      romWindow := some (0x0100#16, 0x0100#16), memMap :=
        [⟨0x8000, 0x8000, .device⟩, ⟨0x9000, 0x9000, .rom⟩, ⟨0xA000, 0xA000, .readOnlyDevice⟩] } }

/-- R11, R116: a read-only device answers a load and stops a store. -/
theorem test_load_from_read_only_device : gives 0x9030#16 0 { sparse with ea := 0xA000#16 }
    fun t => t.draws == 1 && t.ar == 0xA000#16 := by decide
theorem test_store_to_read_only_device : faults 0x9031#16 0 { sparse with ea := 0xA000#16 } .writeAbsent := by decide

/-- `s` on a device that has nothing but code memory at the memory keys `lo` to `hi`. -/
def onlyCode (s : State) (lo hi : Nat) : State := { s with dev := { s.dev with memMap := [⟨lo, hi, .rom⟩] } }

/-- The first byte of the first word is absent; only its second byte is. -/
theorem witness_access_stops_fetch_absent :
    (sparse.boundary = .run sparse ∧ sparse.pc &&& 0xFFFE#16 = sparse.pc ∧
      fetchStops sparse sparse.fetchSeg sparse.pc 2 = some (.fault .fetchAbsent)) ∧
    (onlyCode start 0x1001000 0x1001000).boundary = .run (onlyCode start 0x1001000 0x1001000) ∧
      fetchStop (onlyCode start 0x1001000 0x1001000) (codeKey 0 0x1000#16) = none ∧
      fetchStops (onlyCode start 0x1001000 0x1001000) 0 0x1000#16 2 = some (.fault .fetchAbsent) :=
  ⟨⟨rfl, by decide, rfl⟩, rfl, rfl, rfl⟩

/-- `start` in segment 1, where a store has written the second byte of the first word. -/
def overwritten : State := { start with csr := 1, codeStores := [0x11001] }

theorem witness_access_stops_self_modifying :
    overwritten.boundary = .run overwritten ∧ overwritten.pc &&& 0xFFFE#16 = overwritten.pc ∧
      fetchStops overwritten overwritten.fetchSeg overwritten.pc 2 = some (.refused .selfModifyingCode) :=
  ⟨rfl, by decide, rfl⟩

/-- A two-word instruction of whose second word only the first byte is present. -/
def cutOff : State := onlyCode (start.withFetchWord 32 0x3456F200) 0x1001000 0x1001002

theorem witness_access_stops_second_word :
    cutOff.boundary = .run cutOff ∧ cutOff.pc &&& 0xFFFE#16 = cutOff.pc ∧
      fetchable cutOff cutOff.fetchSeg cutOff.pc 2 ∧
      decodeWords (codeWordAt cutOff cutOff.fetchSeg cutOff.pc) 0 = some (.bCadr 2 0) ∧
      (Instr.bCadr 2 0).isTwoWord = true ∧
      fetchStops cutOff cutOff.fetchSeg (cutOff.pc + 2) 2 = some (.fault .fetchAbsent) := by
  refine ⟨rfl, by decide, ?_, by decide, rfl, rfl⟩
  unfold fetchable; decide

/-- Vector words that are absent: of a request, of the first and the last SWI, of BRK, and the last byte of the reset
vectors. -/
theorem witness_access_stops_vectors :
    ({ sparse with req := [.nmi] } : State).boundary = .accept .nmi { sparse with req := [.nmi] } ∧
      sparse.levelPresent (BitVec.ofNat 2 (levelOf .nmi)) = true ∧
      fetchStops { sparse with req := [.nmi] } 0 (vectorOf .nmi) 2 = some (.fault .fetchAbsent) ∧
      fetchStops sparse 0 (0x0080#16 + 2#16 * (0#6).zeroExtend 16) 2 = some (.fault .fetchAbsent) ∧
      fetchStops sparse 0 (0x0080#16 + 2#16 * (63#6).zeroExtend 16) 2 = some (.fault .fetchAbsent) ∧
      fetchStops sparse 0 0x0004#16 2 = some (.fault .fetchAbsent) ∧ sparse.useLevel.toNat ≤ 1 ∧
      fetchStops (onlyCode start 0x1000000 0x1000002) 0 0x0000#16 4 = some (.fault .fetchAbsent) ∧
      ({ onlyCode start 0x1000000 0x1000002 with resetIn := true } : State).resetIn = true ∧
      2 ≤ ({ onlyCode start 0x1000000 0x1000002 with psw := 0x02#8 } : State).useLevel.toNat :=
  ⟨rfl, rfl, rfl, rfl, rfl, rfl, by decide, rfl, rfl, by decide⟩

theorem witness_access_stops_unlisted :
    (placed start 0xFE4F).boundary = .run (placed start 0xFE4F) ∧
      (placed start 0xFE4F).pc &&& 0xFFFE#16 = (placed start 0xFE4F).pc ∧
      fetchable (placed start 0xFE4F) (placed start 0xFE4F).fetchSeg (placed start 0xFE4F).pc 2 ∧
      decodeWords (codeWordAt (placed start 0xFE4F) (placed start 0xFE4F).fetchSeg (placed start 0xFE4F).pc) 0 = none := by
  refine ⟨rfl, by decide, ?_, by decide⟩
  unfold fetchable; decide

/-- `start` where data memory is read-only from 8000H to 8006H and absent elsewhere outside the ROM window. -/
def ragged : State :=
  { start with
    ea := 0x8000#16
    sp := 0x8006#16
    dev := { start.dev with memMap := [⟨0x8000, 0x8006, .rom⟩, ⟨0x1000000, 0x100FFFF, .rom⟩] } }

/-- A load whose last byte alone is absent, and loads of every form where nothing is present; the stack alike. -/
theorem witness_access_stops_loads :
    someAbsent ragged ragged.dseg (alignOff 8 ragged.ea) 8 ∧ ¬ someAbsent ragged ragged.dseg (alignOff 4 ragged.ea) 4 ∧
      (∀ x ∈ loadForms sparse 0 0 0 0x0002#16 0, someAbsent sparse sparse.dseg (alignOff x.size x.off) x.size) ∧
      sparse.dev.coprocessor ≠ .absent ∧
      (∀ x ∈ coLoadForms sparse 0, someAbsent sparse sparse.dseg (alignOff x.size x.off) x.size) ∧
      (∀ x ∈ (Instr.tbDbitadr 0 0x0002#16, 0x0002#16) :: updateForms sparse 0 0x0002#16,
        someAbsent sparse sparse.dseg x.2 1) ∧
      someAbsent ragged 0 ragged.sp 2 ∧ ¬ someAbsent ragged 0 ragged.sp 1 ∧
      (∀ x ∈ popForms 0, someAbsent sparse 0 sparse.sp x.2.1) ∧
      ∀ p ∈ popLists, ∃ x ∈ stackKeys sparse (popReads sparse p.1), kindAt sparse.dev x = none := by
  unfold someAbsent; decide

/-- The ways to stop, and not to: the bounds of the ROM window, nothing there, read-only memory, a read-only device, a
writable one. -/
theorem witness_access_stops_write :
    writeStop sparse sparse.dseg 0x0100#16 = some (.fault .writeRomWindow) ∧
      writeStop sparse sparse.dseg 0x00FF#16 = some (.fault .writeAbsent) ∧
      writeStop sparse sparse.dseg 0x0101#16 = some (.fault .writeAbsent) ∧
      writeStop sparse sparse.dseg 0x9000#16 = some (.fault .writeAbsent) ∧
      writeStop sparse sparse.dseg 0xA000#16 = some (.fault .writeAbsent) ∧
      writeStop sparse sparse.dseg 0x8000#16 = none :=
  ⟨rfl, rfl, rfl, rfl, rfl, rfl⟩

/-- `start` with EA in the ROM window, where every form below has an offset of 7FFFH or the ones beside it. -/
def windowed : State :=
  { withR start [(0, 0xFF#8), (1, 0x7F#8), (12, 0xFF#8), (13, 0x7F#8), (14, 0xFF#8), (15, 0x7F#8)] with ea := 0x7FFF#16 }

theorem witness_access_stops_stores :
    (∀ x ∈ storeForms windowed 0 0 0 0x7FFF#16 0,
      writeStops windowed windowed.dseg (alignOff x.size x.off) x.size = some (.fault .writeRomWindow)) ∧
    windowed.dev.coprocessor ≠ .absent ∧
    (∀ x ∈ coStoreForms windowed 0,
      writeStops windowed windowed.dseg (alignOff x.size x.off) x.size = some (.fault .writeRomWindow)) ∧
    ∀ x ∈ updateForms windowed 0 0x7FFF#16,
      answered windowed windowed.dseg x.2 1 ∧ writeStops windowed windowed.dseg x.2 1 = some (.fault .writeRomWindow) := by
  unfold answered
  refine ⟨?_, by decide, ?_, ?_⟩ <;>
    (intro x hx; simp only [storeForms, coStoreForms, updateForms, List.mem_cons, List.not_mem_nil, or_false] at hx)
  · rcases hx with rfl | rfl | rfl | rfl | rfl | rfl | rfl | rfl | rfl | rfl | rfl | rfl | rfl | rfl | rfl | rfl | rfl |
      rfl <;> rfl
  · rcases hx with rfl | rfl | rfl | rfl | rfl | rfl | rfl | rfl <;> rfl
  · rcases hx with rfl | rfl | rfl | rfl <;> exact ⟨by decide, rfl⟩

/-- A stack of eight bytes of read-only memory and a stack in the ROM window. -/
theorem witness_access_stops_pushes :
    (∀ x ∈ pushForms ragged 0, pushStops ragged x.2.length = some (.fault .writeAbsent)) ∧
    ∀ p ∈ pushLists, windowed.levelPresent windowed.useLevel = true ∧
      pushStops { windowed with sp := 0x8000#16 } (pushFrame { windowed with sp := 0x8000#16 } p.1).length =
        some (.fault .writeRomWindow) := by
  refine ⟨?_, ?_⟩ <;>
    (intro x hx; simp only [pushForms, pushLists, List.mem_cons, List.not_mem_nil, or_false] at hx)
  · rcases hx with rfl | rfl | rfl | rfl <;> rfl
  · rcases hx with rfl | rfl | rfl | rfl | rfl | rfl | rfl | rfl | rfl | rfl | rfl | rfl | rfl | rfl | rfl <;>
      exact ⟨rfl, rfl⟩

theorem witness_decode_of_encoded : Instr.wf (.lQrnEaInc 8) = true ∧ Instr.wf (.movErnErm 14 0) = true := by decide

theorem witness_decoded_words : decodeWords 0xF200#16 0x3456#16 = some (.bCadr 2 0x3456#16) := by decide

/-- The latch clear and set; the byte at DSR:EA readable in the last segment, in the segment Rd names and in segment 0. -/
theorem witness_prefix_words :
    start.pfx = false ∧ ({ start with pfx := true } : State).pfx = true ∧
      canRead start.dev (dataKey start.dev 0xFF#8 start.ea) = true ∧
      canRead start.dev (dataKey start.dev ((withR start [(1, 4#8)]).reg 1) start.ea) = true ∧
      canRead start.dev (dataKey start.dev 0 start.ea) = true := ⟨rfl, rfl, by decide, by decide, by decide⟩

/-- Loads at the two ends of the segment, where the bytes wrap. -/
theorem witness_loads :
    canLoad start 0xFFFF#16 1 ∧ canLoad start 0x0000#16 1 ∧ canLoad start 0xFFFF#16 2 ∧ canLoad start 0xFFFF#16 4 ∧
      canLoad start 0xFFFD#16 8 := by
  unfold canLoad readable; decide

/-- The addresses of the load and store forms are operands of the state: BP, FP, ERm and EA at the end of the segment. -/
theorem witness_load_forms :
    canLoad { withR start [(13, 0xFF#8), (12, 0xFF#8), (14, 0xFF#8), (15, 0xFF#8)] with ea := 0xFFFF#16 }
      ((withR start [(13, 0xFF#8), (12, 0xFF#8), (14, 0xFF#8), (15, 0xFF#8)]).er 12 + (0b100000#6).signExtend 16) 2 ∧
    canLoad { withR start [(13, 0xFF#8), (12, 0xFF#8), (14, 0xFF#8), (15, 0xFF#8)] with ea := 0xFFFF#16 }
      ((withR start [(13, 0xFF#8), (12, 0xFF#8), (14, 0xFF#8), (15, 0xFF#8)]).er 14 + (0b011111#6).signExtend 16) 1 := by
  unfold canLoad readable; decide

theorem witness_stores :
    State.reset.mem.wf ∧ canStore State.reset 0xFFFF#16 1 ∧ canStore State.reset 0x00FF#16 1 ∧
      canStore State.reset 0x8001#16 2 ∧ canStore State.reset 0xFFFE#16 4 ∧ canStore State.reset 0xFFFF#16 8 := by
  unfold canStore writable; decide

theorem witness_address_spaces :
    inRomWindow exampleDevice 0 0x0100#16 = true ∧ inRomWindow exampleDevice 0 0x7FFF#16 = true ∧
      inRomWindow exampleDevice 0 0x00FF#16 = false ∧ inRomWindow exampleDevice 0 0x8000#16 = false ∧
      (15#4 : CodeSeg) ≠ 0 ∧ 16 ≤ (16#8 : Byte).toNat ∧ canLoad { State.reset with ea := 0x0100#16 } 0x0100#16 1 := by
  refine ⟨by decide, by decide, by decide, by decide, by decide, by decide, ?_⟩
  unfold canLoad readable; decide

theorem witness_backup_register_moves :
    start.levelView = none ∧ ∀ p ∈ [0x00#8, 0x01#8, 0x02#8, 0x03#8], ({ start with psw := p } : State).levelPresent
      ({ start with psw := p } : State).useLevel = true := by decide

/-- `start` on a device without the level-3 registers and without a coprocessor, at level 3. -/
def bare : State :=
  { start with psw := 0x03#8, dev := { exampleDevice with hasLevel3 := false, coprocessor := .absent } }

theorem witness_absent_unit_stops :
    bare.dev.hasLevel3 = false ∧ bare.useLevel = 3#2 ∧ bare.dev.coprocessor = .absent ∧ (0x2#4).getLsbD 1 = true ∧
      (0x4#4).getLsbD 2 = true := by decide

/-- A stack at the wrap of segment 0, with an odd SP and with SP at 0. -/
theorem witness_push :
    start.mem.wf ∧ writable { start with sp := 0x0000#16 } 0 (0x0000#16 - 2) 2 ∧
      writable { start with sp := 0xF001#16 } 0 (0xF001#16 - 4) 4 ∧
      writable { start with sp := 0x0000#16 } 0 (0x0000#16 - 8) 8 := by
  unfold writable; decide

/-- Every list at level 1, and an EPSW at level 0. -/
theorem witness_push_lists :
    nested.mem.wf ∧ (∀ p ∈ pushLists, writable nested 0 (nested.sp - BitVec.ofNat 16 (pushFrame nested p.1).length)
      (pushFrame nested p.1).length) ∧ nested.levelPresent nested.useLevel = true ∧
      writable start 0 (start.sp - BitVec.ofNat 16 (pushFrame start 0x4#4).length) (pushFrame start 0x4#4).length := by
  unfold writable; decide

theorem witness_pop :
    readable { start with sp := 0xFFFF#16 } 0 0xFFFF#16 1 ∧ readable { start with sp := 0xFFFF#16 } 0 0xFFFF#16 2 ∧
      readable { start with sp := 0xFFFF#16 } 0 0xFFFF#16 4 ∧ readable { start with sp := 0xFFFD#16 } 0 0xFFFD#16 8 := by
  unfold readable; decide

theorem witness_pop_lists : ∀ p ∈ popLists, stackReadable { start with sp := 0xFFFE#16 } (popReads start p.1) := by
  unfold stackReadable; decide

theorem witness_push_then_pop :
    Inv nested ∧ writable nested 0 (nested.sp - 8) 8 ∧ nested.levelPresent nested.useLevel = true ∧
      nested.useLevel ≠ 0 := by
  refine ⟨nested_inv, ?_, by decide, by decide⟩
  unfold writable; decide

theorem witness_mov_psw :
    elevelOf 0x08#8 = elevelOf start.psw ∧ elevelOf 0x03#8 ≠ elevelOf start.psw := by decide

theorem witness_coprocessor :
    start.dev.coprocessor ≠ .absent ∧ start.mem.wf ∧ canLoad start start.ea 1 ∧ canLoad start start.ea 2 ∧
      canLoad start start.ea 4 ∧ canLoad start start.ea 8 ∧ canStore State.reset State.reset.ea 1 ∧
      canStore State.reset State.reset.ea 2 ∧ canStore State.reset State.reset.ea 4 ∧
      canStore State.reset State.reset.ea 8 := by
  unfold canLoad readable canStore writable; decide

/-- The other kind of coprocessor. -/
theorem witness_coprocessor_device :
    ({ start with dev := { exampleDevice with coprocessor := .device } } : State).dev.coprocessor = .device := by decide

theorem witness_decimal_arithmetic : isBcd 0x00#8 ∧ isBcd 0x99#8 := by
  unfold isBcd; decide

theorem witness_memory_bits : State.reset.mem.wf ∧ canStore State.reset 0x00FF#16 1 ∧ canLoad State.reset 0x7FFF#16 1 := by
  unfold canStore writable canLoad readable; decide

/-- A comparison whose ten branches go both ways: 80H and 01H. -/
theorem witness_compare_then_branch :
    (0x01#8).toNat ≤ (0x80#8).toNat ∧ ¬ ((0x01#8).toInt ≤ (0x80#8).toInt) ∧ (0x80#8 : Byte) ≠ 0x01#8 := by decide

theorem witness_far_branches :
    start.isLarge = true ∧ startSmall.isLarge = false ∧ (0#4 : CodeSeg) = 0 ∧ (1#4 : CodeSeg) ≠ 0 := by decide

theorem witness_call_then_return : Inv nested ∧ nested.isLarge = true ∧ Inv startSmall ∧ (0#4 : CodeSeg) = 0 :=
  ⟨nested_inv, by decide, small_inv, rfl⟩

theorem witness_return_from_interrupt :
    start.useLevel = 0 ∧ ∀ p ∈ [0x01#8, 0x03#8], ({ start with psw := p } : State).useLevel ≠ 0 ∧
      ({ start with psw := p } : State).levelPresent ({ start with psw := p } : State).useLevel = true := by decide

/-- Software entries: the first and the last vector of SWI, BRK at levels 1 and 2. -/
theorem witness_software_entries :
    fetchable start 0 (0x0080#16 + 2#16 * (0#6).zeroExtend 16) 2 ∧
      fetchable start 0 (0x0080#16 + 2#16 * (63#6).zeroExtend 16) 2 ∧ fetchable start 0 0x0004#16 2 ∧
      fetchable start 0 0x0000#16 4 ∧ nested.useLevel.toNat ≤ 1 ∧
      2 ≤ ({ start with psw := 0x02#8 } : State).useLevel.toNat := by
  unfold fetchable; decide

theorem witness_multiply_and_divide :
    (1 : Reg) = 0 + 1 ∧ (2 : Reg) ≠ 0 ∧ (2 : Reg) ≠ 0 + 1 ∧ (withR start [(2, 0x10#8)]).reg 2 ≠ 0 ∧ start.reg 2 = 0 := by
  decide

theorem witness_blocking_latches :
    (∃ t, exec (.dsrPrefixImm8 5) start = .next t) ∧ (∃ t, exec (.swiSnum 0) start = .next t) ∧
      (∃ t, start.enter 1#2 0x0080#16 0x1002#16 true 0x00#8 = .next t) ∧ (∃ t, start.acceptRequest .nmi = .next t) ∧
      (∃ t, start.acceptReset = .next t) ∧ State.reset.iblock = true ∧ State.reset.entryBlock = true ∧
      ({ start with pfx := true } : State).pfx = true :=
  ⟨⟨_, rfl⟩, ⟨_, rfl⟩, ⟨_, rfl⟩, ⟨_, rfl⟩, ⟨_, rfl⟩, rfl, rfl, rfl⟩

/-- A maskable request at level 1, with MIE 1. -/
def askedMi : State := { start with psw := 0x09#8, req := [.mi 58] }

/-- An NMI and a maskable request at level 3 without an emulator. -/
def askedInVain : State :=
  { start with psw := 0x0B#8, req := [.nmi, .nmice, .mi 58], dev := { exampleDevice with hasNmice := false } }

theorem witness_acceptance_table :
    unblocked askedMi ∧ noWindow askedMi ∧ (∃ q ∈ askedMi.req, acceptable askedMi q) ∧
      askedMi.boundary = .accept (.mi 58) askedMi ∧ askedMi.dev.miRule = .order ∧ askedMi.levelView = none ∧
      unblocked askedInVain ∧ askedInVain.mieWindow = 0 ∧ ∀ q ∈ askedInVain.req, ¬ acceptable askedInVain q := by
  refine ⟨⟨rfl, rfl, rfl, rfl⟩, ⟨rfl, rfl⟩, ⟨.mi 58, by decide, by decide, by decide, by decide⟩, rfl, rfl, rfl,
    ⟨rfl, rfl, rfl, rfl⟩, rfl, ?_⟩
  intro q hq
  simp only [askedInVain, List.mem_cons, List.not_mem_nil, or_false] at hq
  rcases hq with rfl | rfl | rfl <;> (unfold acceptable; decide)

/-- NMI inside both windows, at a boundary whose level was drawn as 2; and the rule of the device that is not an order. -/
theorem witness_acceptance_table_in_windows :
    unblocked { start with req := [.nmi], eiWindow := 2, mieWindow := 2, levelView := some 2#2 } ∧
      acceptable { start with req := [.nmi], eiWindow := 2, mieWindow := 2, levelView := some 2#2 } .nmi ∧
      2 ≤ levelOf .nmi ∧ ({ start with levelView := some 2#2 } : State).useLevel = 2#2 ∧
      ({ start with dev := { start.dev with miRule := .any } } : State).dev.miRule ≠ .order := by
  unfold unblocked acceptable; decide

/-- An acceptable NMI at level 2 and NMICE at level 3: the highest levels that accept them. -/
theorem witness_acceptable_levels :
    acceptable { start with psw := 0x02#8 } .nmi ∧ acceptable { start with psw := 0x03#8 } .nmice := by
  unfold acceptable; decide

/-- The three entries at a boundary that accepts. -/
theorem witness_acceptance_entry :
    ({ start with req := [.nmice] } : State).boundary = .accept .nmice { start with req := [.nmice] } ∧
      ({ start with req := [.nmi] } : State).boundary = .accept .nmi { start with req := [.nmi] } ∧
      ({ start with req := [.mi 0], psw := 0x08#8 } : State).boundary =
        .accept (.mi 0) { start with req := [.mi 0], psw := 0x08#8 } ∧
      start.levelPresent 3 = true ∧ fetchable start 0 0x0006#16 2 ∧ fetchable start 0 0x0008#16 2 ∧
      fetchable start 0 (miVector 0) 2 ∧ fetchable start 0 (miVector 58) 2 ∧ start.mieWindow = 0 := by
  refine ⟨rfl, rfl, rfl, by decide, ?_, ?_, ?_, ?_, rfl⟩ <;> (unfold fetchable; decide)

/-- A maskable request alone. -/
def asked : State := { start with req := [.mi 0], psw := 0x08#8 }

/-- The window of R577, open: NMI and NMICE are accepted in it all the same. -/
def lingering (q : Request) : State := { start with req := [q], mieWindow := 2 }

/-- Inside the window of R577: NMI and NMICE; a maskable request is accepted or left, as the free choice has it. -/
theorem witness_acceptance_entry_in_window :
    (lingering .nmi).boundary = .accept .nmi (lingering .nmi) ∧
      (lingering .nmice).boundary = .accept .nmice (lingering .nmice) ∧
      (lingering (.mi 0)).boundary =
        if Config.freeBit (lingering (.mi 0)).draws then .accept (.mi 0) ((lingering (.mi 0)).drawn 1)
        else .run ((lingering (.mi 0)).drawn 1) := ⟨rfl, rfl, rfl⟩

/-- The four clauses: MIE 1 with the window closed and open, MIE 0 with it open and closed, level 2. -/
theorem witness_interrupt_windows :
    unblocked asked ∧ asked.levelView = none ∧ Request.nmice ∉ asked.req ∧ Request.nmi ∉ asked.req ∧
      asked.miChoice = some 0 ∧ flagMIE asked.psw = true ∧ asked.useLevel.toNat ≤ 1 ∧
      (elevelOf asked.psw).toNat ≤ 1 ∧ asked.eiWindow = 0 ∧ 0 < ({ asked with eiWindow := 1 } : State).eiWindow ∧
      flagMIE 0x01#8 = false ∧ 0 < ({ asked with psw := 0x01#8, mieWindow := 2 } : State).mieWindow ∧
      asked.mieWindow = 0 ∧ 2 ≤ (elevelOf 0x0A#8).toNat := by
  unfold unblocked; decide

/-- The boundary after a MOV PSW that changed ELEVEL: the level drawn is 1 while ELEVEL is 2, and the other way round; NMI
is pending at a level of 3. -/
theorem witness_interrupt_windows_level_drawn :
    ({ asked with psw := 0x0A#8, levelView := some 1#2 } : State).useLevel.toNat ≤ 1 ∧
      2 ≤ (elevelOf 0x0A#8).toNat ∧ 2 ≤ ({ asked with levelView := some 2#2 } : State).useLevel.toNat ∧
      ({ asked with levelView := some 3#2, req := [.nmi, .mi 0] } : State).useLevel.toNat = 3 := by decide

/-- The same rule for every choice: with one pending source, a device whose rule is not an order chooses it too. -/
theorem witness_interrupt_windows_any_rule :
    ({ asked with dev := { asked.dev with miRule := .any } } : State).miChoice =
      some 0 := by
  show [(0 : MiSource)][(Config.freeWord asked.draws).toNat % 1]? = some 0
  rw [Nat.mod_one]; rfl

theorem witness_reset_input :
    ({ start with resetIn := true } : State).resetIn = true ∧ fetchable start 0 0x0000#16 4 := by
  refine ⟨rfl, ?_⟩
  unfold fetchable; decide

/-- Every form on the device of `gadget` or beside it: loads that read some of its bytes, stores that write some. -/
theorem witness_device_accesses :
    gadget.mem.wf ∧
      (∀ x ∈ loadForms gadget 0 0 0x8000#16 0x8000#16 0, answered gadget gadget.dseg (alignOff x.size x.off) x.size) ∧
      gadget.dev.coprocessor ≠ .absent ∧
      (∀ x ∈ coLoadForms gadget 0, answered gadget gadget.dseg (alignOff x.size x.off) x.size) ∧
      (∀ x ∈ popForms 0, answered gadget 0 gadget.sp x.2.1) ∧
      (∀ p ∈ popLists, ∀ x ∈ stackKeys gadget (popReads gadget p.1), kindAt gadget.dev x ≠ none) := by
  unfold answered; decide

theorem witness_device_stores :
    (∀ x ∈ storeForms gadget 0 0 0x8000#16 0x8000#16 0, takes gadget gadget.dseg (alignOff x.size x.off) x.size) ∧
      (∀ x ∈ coStoreForms gadget 0, takes gadget gadget.dseg (alignOff x.size x.off) x.size) ∧
      (∀ x ∈ pushForms gadget 0, takes gadget 0 (gadget.sp - BitVec.ofNat 16 x.2.length) x.2.length) ∧
      ∀ p ∈ pushLists, gadget.levelPresent gadget.useLevel = true ∧
        takes gadget 0 (gadget.sp - BitVec.ofNat 16 (pushFrame gadget p.1).length) (pushFrame gadget p.1).length := by
  unfold takes; decide

/-- A byte of the device at both ends, outside the ROM window, and one inside a window that covers it. -/
theorem witness_device_bytes :
    kindAt gadget.dev (dataKey gadget.dev gadget.dseg gadget.ea) = some .device ∧
      inRomWindow gadget.dev gadget.dseg gadget.ea = false ∧
      kindAt gadget.dev (dataKey gadget.dev gadget.dseg 0x8003#16) = some .device ∧
      kindAt gadget.dev (dataKey gadget.dev gadget.dseg 0x8004#16) = some .ram ∧
      isDevice gadget.dev (dataKey gadget.dev gadget.dseg 0x8003#16) = true ∧
      isDevice sparse.dev (dataKey sparse.dev sparse.dseg 0xA000#16) = true ∧
      inRomWindow gadget.dev gadget.dseg 0x8003#16 = false := by decide

/-- Steps that change CSR and DSR. -/
theorem witness_segment_register_writers :
    (∃ t, exec (.bCadr 2 0x3456#16) start = .next t ∧ t.csr ≠ start.csr) ∧
      ∃ t, exec (.dsrPrefixImm8 5) start = .next t ∧ t.dsr ≠ start.dsr :=
  ⟨⟨_, rfl, by decide⟩, ⟨_, rfl, by decide⟩⟩

end Sys2Proof.Tests
end

section
/-! SUPPORT. Fetching the instruction the bytes at CSR:PC decode to: O5. -/
namespace Sys2Proof.Proofs.Scope
open Sys2Proof Sys2Proof.Machine

/-- Bit 0 of a word is the only one `0xFFFE` clears (10_state.md R58). -/
theorem even_iff (v : Word) : v &&& 0xFFFE#16 = v ↔ v.toNat % 2 = 0 := by
  have mask : ∀ i < 16, (0xFFFE#16).getLsbD i = decide (1 ≤ i) := by decide
  have bit0 : v.getLsbD 0 = decide (v.toNat % 2 = 1) := Nat.testBit_zero _
  constructor
  · intro h
    have := congrArg (BitVec.getLsbD · 0) h
    simp only [BitVec.getLsbD_and, mask 0 (by omega), bit0] at this
    simp at this
    omega
  · intro h
    apply BitVec.eq_of_getLsbD_eq
    intro i hi
    rw [BitVec.getLsbD_and, mask i hi]
    obtain rfl | hpos := Nat.eq_zero_or_pos i
    · rw [bit0, h]; rfl
    · simp [show 1 ≤ i from hpos]

theorem even_add_two {v : Word} (h : v &&& 0xFFFE#16 = v) : (v + 2) &&& 0xFFFE#16 = v + 2 := by
  rw [even_iff] at h ⊢
  have := v.isLt
  rw [BitVec.toNat_add]
  simp
  omega

/-- The bytes of one instruction and nothing else: one word that decodes alone, or two words of which the first calls
for the second (30_encoding.md R161). -/
theorem decode_eq_ok {bytes : List Byte} {i : Instr} (h : decode bytes = .ok (i, [])) :
    (∃ b0 b1, bytes = [b0, b1] ∧ decodeWords (wordOfBytes b0 b1) 0 = some i ∧ i.isTwoWord = false) ∨
      ∃ b0 b1 b2 b3 j, bytes = [b0, b1, b2, b3] ∧ decodeWords (wordOfBytes b0 b1) 0 = some j ∧ j.isTwoWord = true ∧
        decodeWords (wordOfBytes b0 b1) (wordOfBytes b2 b3) = some i := by
  unfold decode at h
  split at h
  next b0 b1 rest =>
    split at h
    next => cases h
    next j hj =>
      split at h
      next h2 =>
        split at h
        next b2 b3 rest' =>
          split at h
          next => cases h
          next k hk =>
            cases h
            exact .inr ⟨b0, b1, b2, b3, j, rfl, hj, h2, hk⟩
        next => cases h
      next h2 =>
        cases h
        exact .inl ⟨b0, b1, rfl, hj, by simpa using h2⟩
  next => cases h

/-- The fetch of a one-word instruction (20_memory.md R108). -/
theorem fetch_of_oneWord {u : State} {i : Instr} {w : Word} (hw : u.codeRead16 u.fetchSeg u.pc = .next w)
    (hd : decodeWords w 0 = some i) (h1 : i.isTwoWord = false) : u.fetch = .next i := by
  rw [State.fetch, hw, andThen_next, hd, listed, andThen_next, h1]
  rfl

/-- The fetch of a two-word instruction (20_memory.md R108, 30_encoding.md R161). -/
theorem fetch_of_twoWord {u : State} {i j : Instr} {w1 w2 : Word} (hw1 : u.codeRead16 u.fetchSeg u.pc = .next w1)
    (hw2 : u.codeRead16 u.fetchSeg (u.pc + 2) = .next w2) (hj : decodeWords w1 0 = some j) (h2 : j.isTwoWord = true)
    (hd : decodeWords w1 w2 = some i) : u.fetch = .next i := by
  rw [State.fetch, hw1, andThen_next, hj, listed, andThen_next, if_pos h2, hw2, andThen_next, hd, listed]

theorem fetchable_two_of_four {s : State} {c : CodeSeg} {off : Word} (h : fetchable s c off 4) :
    fetchable s c off 2 ∧ fetchable s c (off + 2) 2 := by
  simp only [fetchable, codeKeysOf, List.range_succ, List.range_zero, List.map_cons, List.map_nil,
    List.nil_append, List.cons_append, List.forall_mem_cons] at h ⊢
  obtain ⟨h0, h1, h2, h3, -⟩ := h
  refine ⟨⟨h0, h1, by simp⟩, ⟨by simpa using h2, ?_, by simp⟩⟩
  rwa [BitVec.add_assoc]

theorem codeBytes_two (u : State) (c : CodeSeg) (off : Word) :
    (codeKeysOf c off 2).map u.mem.read = [u.mem.read (codeKey c off), u.mem.read (codeKey c (off + 1))] := by
  simp [codeKeysOf, List.range_succ]

theorem codeBytes_four (u : State) (c : CodeSeg) (off : Word) :
    (codeKeysOf c off 4).map u.mem.read =
      [u.mem.read (codeKey c off), u.mem.read (codeKey c (off + 1)), u.mem.read (codeKey c (off + 2)),
        u.mem.read (codeKey c (off + 2 + 1))] := by
  simp [codeKeysOf, List.range_succ, BitVec.add_assoc]

/-- An instruction whose bytes stand at an even CSR:PC and can be fetched is the one fetched. -/
theorem fetch_of_decode {u : State} {i : Instr} (hpc : u.pc &&& 0xFFFE#16 = u.pc)
    (hf : fetchable u u.fetchSeg u.pc i.size)
    (hd : decode ((codeKeysOf u.fetchSeg u.pc i.size).map u.mem.read) = .ok (i, [])) : u.fetch = .next i := by
  have word (off : Word) (he : off &&& 0xFFFE#16 = off) (h : fetchable u u.fetchSeg off 2) :
      u.codeRead16 u.fetchSeg off = .next (codeWordAt u u.fetchSeg off) := by
    have := State.codeRead16_of_fetchable (s := u) (c := u.fetchSeg) (off := off) (by rwa [he])
    rwa [he] at this
  have hlen : ((codeKeysOf u.fetchSeg u.pc i.size).map u.mem.read).length = i.size := by simp [codeKeysOf]
  obtain ⟨b0, b1, hb, hw, h1⟩ | ⟨b0, b1, b2, b3, j, hb, hj, h2, hw⟩ := decode_eq_ok hd
  · rw [hb] at hlen
    rw [← show 2 = i.size from hlen, codeBytes_two] at hb
    cases hb
    exact fetch_of_oneWord (word _ hpc (by rwa [← show 2 = i.size from hlen] at hf)) hw h1
  · rw [hb] at hlen
    rw [← show 4 = i.size from hlen, codeBytes_four] at hb
    cases hb
    obtain ⟨hf1, hf2⟩ := fetchable_two_of_four (by rwa [← show 4 = i.size from hlen] at hf)
    exact fetch_of_twoWord (word _ hpc hf1) (word _ (even_add_two hpc) hf2) hj h2 hw

/-- Settles O5: at a boundary that runs an instruction, step is the fetch, which gives the decoded instruction. -/
theorem stepRunsDecodedInstruction : Obligations.StepRunsDecodedInstruction := by
  intro s u i hb hpc hf hd
  have hfetch : u.fetch = .next i := fetch_of_decode hpc hf hd
  rw [step, hb]
  show andThen u.fetch (fun j => exec j u) = exec i u
  rw [hfetch, andThen_next]

end Sys2Proof.Proofs.Scope
end

section
/-! SUPPORT. What a boundary leads to, case by case of 60_exceptions.md R507 and R508: O55 and O57. -/
namespace Sys2Proof.Proofs.Scope
open Sys2Proof Sys2Proof.Machine

theorem mem_miPending (s : State) (v : MiSource) : v ∈ s.miPending ↔ v ∈ s.dev.miSources ∧ Request.mi v ∈ s.req := by
  simp [State.miPending]

/-- The source the device chooses is one of its own that is pending (00_scope.md R12). -/
theorem mem_miPending_of_miChoice {s : State} {v : MiSource} (h : s.miChoice = some v) : v ∈ s.miPending := by
  unfold State.miChoice at h
  split at h
  next => exact List.mem_of_mem_head? h
  next => exact List.mem_of_getElem? h

/-- Where a source of the device is pending, the device chooses one. -/
theorem miChoice_isSome {s : State} {v : MiSource} (h : v ∈ s.miPending) : ∃ w, s.miChoice = some w := by
  have hpos : 0 < s.miPending.length := List.length_pos_of_mem h
  unfold State.miChoice
  split
  next => exact ⟨_, List.head?_eq_some_head (List.ne_nil_of_mem h)⟩
  next => exact ⟨_, List.getElem?_eq_getElem (Nat.mod_lt _ hpos)⟩

/-- A fixed order chooses the first pending source (00_scope.md R12). -/
theorem miChoice_of_order {s : State} (h : s.dev.miRule = .order) :
    s.miChoice = s.dev.miSources.find? fun i => decide (Request.mi i ∈ s.req) := by
  simp [State.miChoice, h, State.miPending, List.head?_filter]

theorem miOpen_iff (s : State) : s.miOpen = true ↔ flagMIE s.psw = true ∧ s.useLevel.toNat ≤ 1 := by
  simp [State.miOpen]

theorem miLingers_iff (s : State) :
    s.miLingers = true ↔
      flagMIE s.psw = false ∧ 0 < s.mieWindow ∧ (elevelOf s.psw).toNat ≤ 1 ∧ s.useLevel.toNat ≤ 1 := by
  rw [show elevelOf s.psw = s.elevel from rfl]
  simp only [State.miLingers, Bool.and_eq_true, Bool.not_eq_true', decide_eq_true_eq, and_assoc]

/-- A maskable request is accepted outright where it is acceptable and no window is open (60_exceptions.md R507). -/
theorem boundaryMi_of_open {s : State} (v : MiSource) (ho : s.miOpen = true) (hw : s.eiWindow = 0) :
    s.boundaryMi v = .accept (.mi v) s := by
  have hl : s.miLingers = false := by
    have hmie : flagMIE s.psw = true := ((miOpen_iff s).1 ho).1
    rw [Bool.eq_false_iff, ne_eq, miLingers_iff, hmie]
    simp
  simp [State.boundaryMi, ho, hw, hl]

/-- Inside a window the acceptance is a free choice (70_reset_and_hazards.md R576, R577). -/
theorem boundaryMi_of_window {s : State} (v : MiSource) (h : s.miOpen = true ∧ 0 < s.eiWindow ∨ s.miLingers = true) :
    s.boundaryMi v = .accept (.mi v) (s.drawn 1) ∨ s.boundaryMi v = .run (s.drawn 1) := by
  have hc : ((s.miOpen && decide (0 < s.eiWindow)) || s.miLingers) = true := by simpa using h
  rw [State.boundaryMi, if_pos hc]
  split
  · exact .inl rfl
  · exact .inr rfl

/-- A maskable request that is neither acceptable nor lingers is left. -/
theorem boundaryMi_of_closed {s : State} (v : MiSource) (ho : s.miOpen = false) (hl : s.miLingers = false) :
    s.boundaryMi v = .run s := by
  simp [State.boundaryMi, ho, hl]

theorem boundaryMi_eq_accept {s u : State} {v : MiSource} {q : Request} (h : s.boundaryMi v = .accept q u) :
    q = .mi v := by
  unfold State.boundaryMi at h
  split_ifs at h <;> cases h <;> rfl

/-- NMICE, where an emulator raises it, comes first (60_exceptions.md R508). -/
theorem boundary_of_nmice {s : State} (h : unblocked s) (hn : s.dev.hasNmice = true) (hq : Request.nmice ∈ s.req) :
    s.boundary = .accept .nmice s := by
  obtain ⟨h1, h2, h3, h4⟩ := h
  simp [State.boundary, h1, h2, h3, h4, hn, hq]

/-- NMI comes next, at a level of at most 2 (60_exceptions.md R507, R508). -/
theorem boundary_of_nmi {s : State} (h : unblocked s) (hn : s.dev.hasNmice = false ∨ Request.nmice ∉ s.req)
    (hl : s.useLevel.toNat ≤ 2) (hq : Request.nmi ∈ s.req) : s.boundary = .accept .nmi s := by
  obtain ⟨h1, h2, h3, h4⟩ := h
  have hn' : (s.dev.hasNmice && s.req.contains .nmice) = false :=
    Bool.and_eq_false_iff.2 (hn.imp_right (by simp))
  simp only [State.boundary, h1, h2, h3, h4, hn']
  simp [hl, hq]

/-- With neither NMICE nor NMI acceptable, the device's choice of a maskable source decides (60_exceptions.md R508). -/
theorem boundary_of_miChoice {s : State} (h : unblocked s) (hn : s.dev.hasNmice = false ∨ Request.nmice ∉ s.req)
    (hm : 2 < s.useLevel.toNat ∨ Request.nmi ∉ s.req) :
    s.boundary = s.miChoice.elim (.run s) s.boundaryMi := by
  obtain ⟨h1, h2, h3, h4⟩ := h
  have hn' : (s.dev.hasNmice && s.req.contains .nmice) = false :=
    Bool.and_eq_false_iff.2 (hn.imp_right (by simp))
  have hm' : (decide (s.useLevel.toNat ≤ 2) && s.req.contains .nmi) = false :=
    Bool.and_eq_false_iff.2 (hm.imp (by simp) (by simp))
  simp only [State.boundary, h1, h2, h3, h4, hn', hm']
  cases s.miChoice <;> rfl

/-- A maskable request that is accepted is the device's choice. -/
theorem miChoice_of_boundary {s u : State} {v : MiSource} (h : s.boundary = .accept (.mi v) u) :
    s.miChoice = some v := by
  unfold State.boundary at h
  split_ifs at h
  case neg =>
    split at h
    next => cases h
    next w hw =>
      cases boundaryMi_eq_accept h
      exact hw
  all_goals cases h

/-- The level of the acceptance test (70_reset_and_hazards.md R578). -/
theorem useLevel_of_levelView (s : State) :
    (s.levelView = none → s.useLevel = elevelOf s.psw) ∧ ∀ k, s.levelView = some k → s.useLevel = k :=
  ⟨fun h => by rw [State.useLevel, h]; rfl, fun k h => by rw [State.useLevel, h]; rfl⟩

theorem levelOf_le_three (q : Request) : levelOf q ≤ 3 := by
  cases q <;> simp [levelOf]

/-- The acceptable request of the highest level is accepted (60_exceptions.md R508). -/
theorem boundary_accepts_highest {s : State} (h : unblocked s) {q : Request} (hq : q ∈ s.req) (ha : acceptable s q)
    (hw : 2 ≤ levelOf q ∨ noWindow s) :
    ∃ q ∈ s.req, s.boundary = .accept q s ∧ acceptable s q ∧
      ∀ q' ∈ s.req, acceptable s q' → levelOf q' ≤ levelOf q := by
  by_cases hice : s.dev.hasNmice = true ∧ Request.nmice ∈ s.req
  · refine ⟨.nmice, hice.2, boundary_of_nmice h hice.1 hice.2, hice.1, fun q' _ _ => ?_⟩
    exact levelOf_le_three q'
  have hice' : s.dev.hasNmice = false ∨ Request.nmice ∉ s.req := by
    rwa [not_and_or, Bool.not_eq_true] at hice
  by_cases hnmi : s.useLevel.toNat ≤ 2 ∧ Request.nmi ∈ s.req
  · refine ⟨.nmi, hnmi.2, boundary_of_nmi h hice' hnmi.1 hnmi.2, hnmi.1, fun q' hq' ha' => ?_⟩
    cases q' with
    | nmice => exact absurd ⟨ha', hq'⟩ hice
    | nmi => decide
    | mi v => exact Nat.le_succ 1
  have hnmi' : 2 < s.useLevel.toNat ∨ Request.nmi ∉ s.req := by
    rwa [not_and_or, not_le] at hnmi
  cases q with
  | nmice => exact absurd ⟨ha, hq⟩ hice
  | nmi => exact absurd ⟨ha, hq⟩ hnmi
  | mi v =>
    obtain ⟨hmie, hlev, hsrc⟩ := ha
    obtain ⟨w, hc⟩ := miChoice_isSome ((mem_miPending s v).2 ⟨hsrc, hq⟩)
    obtain ⟨hsrc', hq'⟩ := (mem_miPending s w).1 (mem_miPending_of_miChoice hc)
    have hclosed : s.eiWindow = 0 := by
      obtain hw | hw := hw
      · exact absurd hw (Nat.not_succ_le_self 1)
      · exact hw.1
    refine ⟨.mi w, hq', ?_, ⟨hmie, hlev, hsrc'⟩, fun q' hq' ha' => ?_⟩
    · rw [boundary_of_miChoice h hice' hnmi', hc]
      exact boundaryMi_of_open w ((miOpen_iff s).2 ⟨hmie, hlev⟩) hclosed
    · cases q' with
      | nmice => exact absurd ⟨ha', hq'⟩ hice
      | nmi => exact absurd ⟨ha', hq'⟩ hnmi
      | mi x => exact le_rfl

/-- With nothing acceptable and the window of R577 closed the next instruction runs. -/
theorem boundary_runs {s : State} (h : unblocked s) (hno : ∀ q ∈ s.req, ¬ acceptable s q) (hw : s.mieWindow = 0) :
    s.boundary = .run s := by
  have hice : s.dev.hasNmice = false ∨ Request.nmice ∉ s.req := by
    by_cases hq : Request.nmice ∈ s.req
    · exact .inl (Bool.eq_false_iff.2 (hno _ hq))
    · exact .inr hq
  have hnmi : 2 < s.useLevel.toNat ∨ Request.nmi ∉ s.req := by
    by_cases hq : Request.nmi ∈ s.req
    · exact .inl (not_le.1 (hno _ hq))
    · exact .inr hq
  rw [boundary_of_miChoice h hice hnmi]
  cases hc : s.miChoice with
  | none => rfl
  | some v =>
    obtain ⟨hsrc, hq⟩ := (mem_miPending s v).1 (mem_miPending_of_miChoice hc)
    have ho : s.miOpen = false := by
      rw [Bool.eq_false_iff, ne_eq, miOpen_iff]
      exact fun ⟨hmie, hlev⟩ => hno _ hq ⟨hmie, hlev, hsrc⟩
    have hl : s.miLingers = false := by
      rw [Bool.eq_false_iff, ne_eq, miLingers_iff]
      omega
    exact boundaryMi_of_closed v ho hl

/-- Settles O55, by the order of the boundary's tests: NMICE, NMI, then the maskable source the device chooses. -/
theorem acceptanceTable : Obligations.AcceptanceTable := by
  intro s h
  refine ⟨fun ⟨q, hq, ha, hw⟩ => boundary_accepts_highest h hq ha hw, boundary_runs h, fun v u hb => ?_,
    useLevel_of_levelView s⟩
  have hc : s.miChoice = some v := miChoice_of_boundary hb
  obtain ⟨hsrc, hq⟩ := (mem_miPending s v).1 (mem_miPending_of_miChoice hc)
  exact ⟨hsrc, hq, fun ho => by rw [← miChoice_of_order ho, hc]⟩

/-- Settles O57: each clause is one case of the maskable part of the boundary. -/
theorem interruptWindows : Obligations.InterruptWindows := by
  intro s v h hice hnmi hc
  have hb : s.boundary = s.boundaryMi v := by
    rw [boundary_of_miChoice h hice (hnmi.imp_left fun hl => by omega), hc]
    rfl
  have left (ho : ¬ (flagMIE s.psw = true ∧ s.useLevel.toNat ≤ 1))
      (hl : ¬ (flagMIE s.psw = false ∧ 0 < s.mieWindow ∧ (elevelOf s.psw).toNat ≤ 1 ∧ s.useLevel.toNat ≤ 1)) :
      s.boundaryMi v = .run s :=
    boundaryMi_of_closed v (Bool.eq_false_iff.2 (mt (miOpen_iff s).1 ho))
      (Bool.eq_false_iff.2 (mt (miLingers_iff s).1 hl))
  rw [hb]
  refine ⟨fun hmie hlev => ⟨?_, ?_⟩, fun hmie hlev hel hw => ?_, fun hmie hw => ?_, fun hlev => ?_,
    useLevel_of_levelView s⟩
  · exact boundaryMi_of_open v ((miOpen_iff s).2 ⟨hmie, hlev⟩)
  · exact fun hw => boundaryMi_of_window v (.inl ⟨(miOpen_iff s).2 ⟨hmie, hlev⟩, hw⟩)
  · exact boundaryMi_of_window v (.inr ((miLingers_iff s).2 ⟨hmie, hw, hel, hlev⟩))
  · exact left (by simp [hmie]) (by omega)
  · exact left (by omega) (by omega)

end Sys2Proof.Proofs.Scope
end

section
/-! SUPPORT. The ways an instruction can end, and what no step changes of the environment: O4. -/
namespace Sys2Proof.Proofs.Scope
open Sys2Proof Sys2Proof.Machine

/-! What an instruction can do -/

/-- How an instruction that began at `s` can end: it continues in its segment or in another one, it is one of the
instructions with an end of their own (MOV PSW, EI, DI, a word that loads DSR), or it enters an interrupt level or
resets. -/
inductive Ended (s : State) : State → Prop where
  | finish {u : State} (k : Kept s u) (off : Word) : Ended s (u.finish off)
  | far {u : State} (k : Kept s u) (seg : CodeSeg) (off : Word) : Ended s ((u.setCsr seg).finish off)
  | movPsw {u : State} (k : Kept s u) (v : Byte) : Ended s (u.movPsw v)
  | ei {u : State} (k : Kept s u) : Ended s u.enableInterrupts
  | di {u : State} (k : Kept s u) : Ended s u.disableInterrupts
  | prefixWord {u t : State} (k : Kept s u) (seg : Byte) (h : u.prefixWord seg = .next t) : Ended s t
  | entry {u t : State} (k : Kept s u) (level : Level) (vec ret : Word) (clearMie : Bool) (saved : Byte)
      (h : u.enter level vec ret clearMie saved = .next t) : Ended s t
  | reset {u t : State} (k : Kept s u) (h : u.resetSequence = .next t) : Ended s t

theorem Ended.of_kept {s u t : State} (k : Kept s u) (h : Ended u t) : Ended s t := by
  cases h with
  | finish k' off => exact .finish (k.trans k') off
  | far k' seg off => exact .far (k.trans k') seg off
  | movPsw k' v => exact .movPsw (k.trans k') v
  | ei k' => exact .ei (k.trans k')
  | di k' => exact .di (k.trans k')
  | prefixWord k' seg h => exact .prefixWord (k.trans k') seg h
  | entry k' level vec ret c saved h => exact .entry (k.trans k') level vec ret c saved h
  | reset k' h => exact .reset (k.trans k') h

/-- Whatever next state `x` answers, an instruction that began at `s` has ended there. -/
def Ends (s : State) (x : Res State) : Prop := ∀ t, x = .next t → Ended s t

namespace Ends

theorem of_ended {s t : State} (h : Ended s t) : Ends s (.next t) := by
  rintro _ ⟨⟩
  exact h

theorem finish {s u : State} {off : Word} (k : Kept s u) : Ends s (.next (u.finish off)) := of_ended (.finish k off)

theorem refused {s : State} (e : Refusal) : Ends s (.refused e) := by rintro _ ⟨⟩

/-- First a part that keeps what `Kept` says, then the rest from the state `st` of its value. -/
theorem bind {α : Type} {s : State} {x : Res α} {f : α → Res State} {st : α → State}
    (hk : ∀ a, x = .next a → Kept s (st a)) (hf : ∀ a, Ends (st a) (f a)) : Ends s (andThen x f) := by
  intro t h
  obtain ⟨a, ha, ht⟩ := andThen_eq_next h
  exact .of_kept (hk a ha) (hf a t ht)

theorem branchIf (s : State) (c : Bool) (disp : BitVec 8) : Ends s (.next (s.branchIf c disp)) := by
  unfold State.branchIf
  split
  · exact finish (.refl s)
  · exact finish (.refl s)

theorem popPcItem (s : State) : Ends s s.popPcItem := by
  intro t h
  obtain ⟨u, seg, off, k, rfl⟩ := Kept.popPcItem h
  exact .far k seg off

theorem prefixWord (s : State) (seg : Byte) : Ends s (s.prefixWord seg) := fun _ h => .prefixWord (.refl s) seg h

theorem enter (s : State) (k : Level) (vec ret : Word) (clearMie : Bool) (saved : Byte) :
    Ends s (s.enter k vec ret clearMie saved) := fun _ h => .entry (.refl s) k vec ret clearMie saved h

theorem returnFromInterrupt (s : State) : Ends s s.returnFromInterrupt := by
  unfold State.returnFromInterrupt
  split
  · exact refused _
  · exact bind (fun _ => Kept.needLevel) fun u => of_ended (.far (.setPsw u _) _ _)

end Ends

theorem kept_shiftWrite (s : State) (n : Reg) (k : Nat) (v : Byte) (c : Bool) : Kept s (s.shiftWrite n k v c) := by
  unfold State.shiftWrite
  split
  · exact .refl s
  · exact (Kept.setReg s n v).trans (.setPsw _ _)

theorem kept_divide (s : State) (n m : Reg) : Kept s (s.divide n m) := by
  show Kept s (if s.reg m = 0 then _ else _)
  split
  · exact .of_same rfl
  · exact .of_same rfl

/-- Every instruction ends in one of the ways `Ended` lists. -/
theorem exec_ends (i : Instr) (s : State) : Ends s (exec i s) := by
  cases i with
  -- 40_arithmetic.md, 46_lea_alu.md, the register forms of 43 and 47, MUL and NOP: registers and PSW
  | addRnRm | addRnImm8 | movRnRm | movRnImm8 | addcRnRm | addcRnImm8 | cmpRnRm | cmpRnImm8 | cmpcRnRm | cmpcRnImm8
  | andRnRm | andRnImm8 | orRnRm | orRnImm8 | xorRnRm | xorRnImm8 | subRnRm | subcRnRm | movErnErm | movErnImm7
  | addErnErm | addErnImm7 | cmpErnErm | leaErm | leaDisp16Erm | leaDadr | daaRn | dasRn | negRn | extbwEr0 | extbwEr2
  | extbwEr4 | extbwEr6 | extbwEr8 | extbwEr10 | extbwEr12 | extbwEr14 | addSpSigned8 | movErnSp | movRnPsw | movSpErm
  | sbRnBit | rbRnBit | tbRnBit | sc | rc | cplc | mulErnRm | nop | bErn => exact .finish (.of_same rfl)
  -- 41_shift.md
  | sllRnRm | sllRnWidth | sllcRnRm | sllcRnWidth | sraRnRm | sraRnWidth | srlRnRm | srlRnWidth | srlcRnRm
  | srlcRnWidth => exact .finish (kept_shiftWrite _ _ _ _ _)
  | divErnRm n m =>
    show Ends s (if m = n ∨ m = n + 1 then _ else _)
    split
    · exact .refused _
    · exact .finish (kept_divide s n m)
  -- 42_load_store.md
  | dsrPrefixImm8 | dsrPrefixRd | dsrPrefixDsr => exact .prefixWord _ _
  | lRnEa | lRnErm | lRnDisp16Erm | lRnDisp6Bp | lRnDisp6Fp | lRnDadr | lErnEa | lErnErm | lErnDisp16Erm | lErnDisp6Bp
  | lErnDisp6Fp | lErnDadr | lXrnEa | lQrnEa => exact .bind (fun _ => Kept.loadRegs) fun u => .finish (.refl u)
  | lRnEaInc | lErnEaInc | lXrnEaInc | lQrnEaInc =>
    exact .bind (fun _ => Kept.loadRegs) fun u => .finish (.bumpEa u _)
  | stRnEa | stRnErm | stRnDisp16Erm | stRnDisp6Bp | stRnDisp6Fp | stRnDadr | stErnEa | stErnErm | stErnDisp16Erm
  | stErnDisp6Bp | stErnDisp6Fp | stErnDadr | stXrnEa | stQrnEa =>
    exact .bind (fun _ => Kept.storeRegs) fun u => .finish (.refl u)
  | stRnEaInc | stErnEaInc | stXrnEaInc | stQrnEaInc =>
    exact .bind (fun _ => Kept.storeRegs) fun u => .finish (.bumpEa u _)
  -- 43_control_register.md
  | movEcsrRm => exact .bind (fun _ => Kept.needLevel) fun u => .finish (.setEcsr u _ _)
  | movElrErm => exact .bind (fun _ => Kept.needLevel) fun u => .finish (.setElr u _ _)
  | movEpswRm => exact .bind (fun _ => Kept.needLevel) fun u => .finish (.setEpsw u _ _)
  | movErnElr => exact .bind (fun _ => Kept.needLevel) fun u => .finish (.setEr u _ _)
  | movRnEcsr => exact .bind (fun _ => Kept.needLevel) fun u => .finish (.setReg u _ _)
  | movRnEpsw =>
    refine .bind (fun _ => Kept.needLevel) fun u => ?_
    split
    · exact .finish (.refl u)
    · exact .finish (.setReg u _ _)
  | movPswRm | movPswUnsigned8 => exact .of_ended (.movPsw (.refl s) _)
  -- 44_push_pop.md
  | pushRn => exact .bind (fun _ => Kept.pushFree) fun _ => .bind (fun _ => Kept.push8) fun u => .finish (.refl u)
  | pushErn | pushXrn | pushQrn => exact .bind (fun _ => Kept.pushAll) fun u => .finish (.refl u)
  | pushEa => exact .bind (fun _ => Kept.pushEaItem) fun u => .finish (.refl u)
  | pushElr => exact .bind (fun _ => Kept.pushElrItem) fun u => .finish (.refl u)
  | pushEpsw => exact .bind (fun _ => Kept.pushEpswItem) fun u => .finish (.refl u)
  | pushLr => exact .bind (fun _ => Kept.pushLrItem) fun u => .finish (.refl u)
  | pushEaElr =>
    exact .bind (fun _ => Kept.pushElrItem) fun _ => .bind (fun _ => Kept.pushEaItem) fun u => .finish (.refl u)
  | pushEaEpsw =>
    exact .bind (fun _ => Kept.pushEpswItem) fun _ => .bind (fun _ => Kept.pushEaItem) fun u => .finish (.refl u)
  | pushEaLr =>
    exact .bind (fun _ => Kept.pushLrItem) fun _ => .bind (fun _ => Kept.pushEaItem) fun u => .finish (.refl u)
  | pushElrEpsw =>
    exact .bind (fun _ => Kept.pushElrItem) fun _ => .bind (fun _ => Kept.pushEpswItem) fun u => .finish (.refl u)
  | pushElrLr =>
    exact .bind (fun _ => Kept.pushElrItem) fun _ => .bind (fun _ => Kept.pushLrItem) fun u => .finish (.refl u)
  | pushEpswLr =>
    exact .bind (fun _ => Kept.pushEpswItem) fun _ => .bind (fun _ => Kept.pushLrItem) fun u => .finish (.refl u)
  | pushEaElrEpsw =>
    exact .bind (fun _ => Kept.pushElrItem) fun _ => .bind (fun _ => Kept.pushEpswItem) fun _ =>
      .bind (fun _ => Kept.pushEaItem) fun u => .finish (.refl u)
  | pushEaElrLr =>
    exact .bind (fun _ => Kept.pushElrItem) fun _ => .bind (fun _ => Kept.pushLrItem) fun _ =>
      .bind (fun _ => Kept.pushEaItem) fun u => .finish (.refl u)
  | pushEaEpswLr =>
    exact .bind (fun _ => Kept.pushEpswItem) fun _ => .bind (fun _ => Kept.pushLrItem) fun _ =>
      .bind (fun _ => Kept.pushEaItem) fun u => .finish (.refl u)
  | pushElrEpswLr =>
    exact .bind (fun _ => Kept.pushElrItem) fun _ => .bind (fun _ => Kept.pushEpswItem) fun _ =>
      .bind (fun _ => Kept.pushLrItem) fun u => .finish (.refl u)
  | pushEaElrEpswLr =>
    exact .bind (fun _ => Kept.pushElrItem) fun _ => .bind (fun _ => Kept.pushEpswItem) fun _ =>
      .bind (fun _ => Kept.pushLrItem) fun _ => .bind (fun _ => Kept.pushEaItem) fun u => .finish (.refl u)
  | popRn => exact .bind (fun _ => Kept.pop8) fun p => .finish ((Kept.skip8 p.2).trans (.setReg _ _ _))
  | popErn | popXrn | popQrn => exact .bind (fun _ => Kept.popAll) fun p => .finish (.setRegs p.2 _ _)
  | popEa => exact .bind (fun _ => Kept.popEaItem) fun u => .finish (.refl u)
  | popPsw => exact .bind (fun _ => Kept.popPswItem) fun u => .finish (.refl u)
  | popLr => exact .bind (fun _ => Kept.popLrItem) fun u => .finish (.refl u)
  | popPc => exact .popPcItem s
  | popEaPsw =>
    exact .bind (fun _ => Kept.popEaItem) fun _ => .bind (fun _ => Kept.popPswItem) fun u => .finish (.refl u)
  | popEaLr =>
    exact .bind (fun _ => Kept.popEaItem) fun _ => .bind (fun _ => Kept.popLrItem) fun u => .finish (.refl u)
  | popPswLr =>
    exact .bind (fun _ => Kept.popLrItem) fun _ => .bind (fun _ => Kept.popPswItem) fun u => .finish (.refl u)
  | popEaPswLr =>
    exact .bind (fun _ => Kept.popEaItem) fun _ => .bind (fun _ => Kept.popLrItem) fun _ =>
      .bind (fun _ => Kept.popPswItem) fun u => .finish (.refl u)
  | popEaPc => exact .bind (fun _ => Kept.popEaItem) .popPcItem
  | popPcPsw => exact .bind (fun _ => Kept.popPswItem) .popPcItem
  | popPcLr => exact .bind (fun _ => Kept.popLrItem) .popPcItem
  | popEaPcPsw => exact .bind (fun _ => Kept.popEaItem) fun _ => .bind (fun _ => Kept.popPswItem) .popPcItem
  | popEaPcLr => exact .bind (fun _ => Kept.popEaItem) fun _ => .bind (fun _ => Kept.popLrItem) .popPcItem
  | popPcPswLr => exact .bind (fun _ => Kept.popLrItem) fun _ => .bind (fun _ => Kept.popPswItem) .popPcItem
  | popEaPcPswLr =>
    exact .bind (fun _ => Kept.popEaItem) fun _ => .bind (fun _ => Kept.popLrItem) fun _ =>
      .bind (fun _ => Kept.popPswItem) .popPcItem
  -- 45_coprocessor.md
  | movCrnRm => exact .bind (fun _ => Kept.needCoprocessor) fun u => .finish (.setCreg u _ _)
  | movRnCrm =>
    exact .bind (fun _ => Kept.needCoprocessor) fun u => .finish ((Kept.cregsDrawn u _).trans (.setRegs _ _ _))
  | movCrnEa | movCernEa | movCxrnEa | movCqrnEa =>
    exact .bind (fun _ => Kept.loadCregs) fun u => .finish (.refl u)
  | movCrnEaInc | movCernEaInc | movCxrnEaInc | movCqrnEaInc =>
    exact .bind (fun _ => Kept.loadCregs) fun u => .finish (.bumpEa u _)
  | movEaCrm | movEaCerm | movEaCxrm | movEaCqrm =>
    exact .bind (fun _ => Kept.storeCregs) fun u => .finish (.refl u)
  | movEaIncCrm | movEaIncCerm | movEaIncCxrm | movEaIncCqrm =>
    exact .bind (fun _ => Kept.storeCregs) fun u => .finish (.bumpEa u _)
  -- 47_bit_psw.md and 49_muldiv_misc.md: a byte of memory is read and written back
  | sbDbitadr | rbDbitadr | incEa | decEa =>
    exact .bind (fun _ => Kept.readByte) fun _ => .bind (fun _ => Kept.writeMem) fun u => .finish (.setPsw u _)
  | tbDbitadr => exact .bind (fun _ => Kept.readByte) fun p => .finish ((Kept.latchAr p.2 _).trans (.setPsw _ _))
  | ei => exact .of_ended (.ei (.refl s))
  | di => exact .of_ended (.di (.refl s))
  -- 48_branch.md
  | bgeRadr | bltRadr | bgtRadr | bleRadr | bgesRadr | bltsRadr | bgtsRadr | blesRadr | bneRadr | beqRadr | bnvRadr
  | bovRadr | bpsRadr | bnsRadr | balRadr => exact .branchIf s _ _
  | bCadr => exact .bind (fun _ => Kept.needSegment) fun u => .of_ended (.far (.refl u) _ _)
  | blCadr =>
    exact .bind (fun _ => Kept.needSegment) fun u => .of_ended (.far ((Kept.setLr u _).trans (.setLcsr _ _)) _ _)
  | blErn => exact .finish ((Kept.setLr s _).trans (.setLcsr _ _))
  | rt => exact .of_ended (.far (.refl s) _ _)
  | rti => exact .returnFromInterrupt s
  | swiSnum snum => exact .enter s 1#2 (0x0080#16 + 2#16 * snum.zeroExtend 16) s.nextPc true s.psw
  | brk =>
    show Ends s (if 2 ≤ s.useLevel.toNat then _ else _)
    split
    · exact fun _ h => .reset (.refl s) h
    · exact .enter s _ _ _ _ _

/-! What a step keeps of the environment -/

/-- What no step does: change the device parameters, raise a request, assert the reset input, or forget a store. -/
structure EnvKept (s t : State) : Prop where
  dev : t.dev = s.dev
  req : ∀ q ∈ t.req, q ∈ s.req
  resetIn : t.resetIn = true → s.resetIn = true
  stores : ∀ k ∈ s.codeStores, k ∈ t.codeStores

namespace EnvKept

theorem trans {s u t : State} (h : EnvKept s u) (g : EnvKept u t) : EnvKept s t where
  dev := g.dev.trans h.dev
  req q hq := h.req q (g.req q hq)
  resetIn ht := h.resetIn (g.resetIn ht)
  stores k hk := g.stores k (h.stores k hk)

theorem of_kept {s u : State} (k : Kept s u) : EnvKept s u :=
  ⟨k.dev, fun _ hq => k.req ▸ hq, fun h => k.resetIn ▸ h, k.stores⟩

/-- An update of other fields only. -/
theorem of_same {s u : State} (hd : u.dev = s.dev) (hq : u.req = s.req) (hr : u.resetIn = s.resetIn)
    (hs : u.codeStores = s.codeStores) : EnvKept s u :=
  ⟨hd, fun _ h => hq ▸ h, fun h => hr ▸ h, fun _ h => hs ▸ h⟩

theorem drawn (s : State) (k : Nat) : EnvKept s (s.drawn k) := of_same rfl rfl rfl rfl

theorem movPsw (s : State) (v : Byte) : EnvKept s (s.movPsw v) := by
  unfold State.movPsw
  split_ifs
  all_goals exact of_same rfl rfl rfl rfl

theorem enableInterrupts (s : State) : EnvKept s s.enableInterrupts := by
  unfold State.enableInterrupts
  split_ifs
  all_goals exact of_same rfl rfl rfl rfl

theorem prefixWord {s t : State} {seg : Byte} (h : s.prefixWord seg = .next t) : EnvKept s t := by
  unfold State.prefixWord at h
  split at h
  · cases h
  · cases h
    exact of_same rfl rfl rfl rfl

theorem enter {s t : State} {k : Level} {vec ret : Word} {c : Bool} {saved : Byte}
    (h : s.enter k vec ret c saved = .next t) : EnvKept s t := by
  unfold State.enter at h
  split at h
  · obtain ⟨w, -, h⟩ := andThen_eq_next h
    cases h
    have hk := ((Kept.setElr s k ret).trans (.setEcsr _ k (s.segRead s.csr))).trans (.setEpsw _ k saved)
    exact (of_kept hk).trans (of_same rfl rfl rfl rfl)
  · cases h

theorem resetSequence {s t : State} (h : s.resetSequence = .next t) : EnvKept s t := by
  obtain ⟨_, -, h⟩ := andThen_eq_next h
  obtain ⟨_, -, h⟩ := andThen_eq_next h
  cases h
  exact of_same rfl rfl rfl rfl

theorem of_ended {s t : State} (h : Ended s t) : EnvKept s t := by
  cases h with
  | finish k off => exact (of_kept k).trans (of_same rfl rfl rfl rfl)
  | far k seg off => exact (of_kept k).trans (of_same rfl rfl rfl rfl)
  | movPsw k v => exact (of_kept k).trans (movPsw _ v)
  | ei k => exact (of_kept k).trans (enableInterrupts _)
  | di k => exact (of_kept k).trans (of_same rfl rfl rfl rfl)
  | prefixWord k seg h => exact (of_kept k).trans (prefixWord h)
  | entry k level vec ret c saved h => exact (of_kept k).trans (enter h)
  | reset k h => exact (of_kept k).trans (resetSequence h)

/-- An acceptance removes the request and enters its level (60_exceptions.md R504, R511). -/
theorem acceptRequest {s t : State} {q : Request} (h : s.acceptRequest q = .next t) : EnvKept s t := by
  have removed : EnvKept s { s with req := s.req.filter (· ≠ q) } :=
    ⟨rfl, fun _ => List.mem_of_mem_filter, id, fun _ => id⟩
  cases q with
  | nmice => exact removed.trans (enter h)
  | nmi => exact removed.trans (enter h)
  | mi v => exact removed.trans ((drawn _ 1).trans (enter h))

theorem acceptReset {s t : State} (h : s.acceptReset = .next t) : EnvKept s t := by
  have released : EnvKept s { s with resetIn := false } := ⟨rfl, fun _ => id, by simp, fun _ => id⟩
  exact released.trans (resetSequence h)

end EnvKept

theorem boundaryMi_state {s u : State} {v : MiSource} {q : Request}
    (h : s.boundaryMi v = .accept q u ∨ s.boundaryMi v = .run u) : u = s ∨ u = s.drawn 1 := by
  unfold State.boundaryMi at h
  split_ifs at h
  all_goals
    obtain h | h := h
    all_goals cases h
    all_goals simp

/-- A boundary changes nothing but the count of draws. -/
theorem boundary_state {s u : State} {q : Request} (h : s.boundary = .accept q u ∨ s.boundary = .run u) :
    u = s ∨ u = s.drawn 1 := by
  unfold State.boundary at h
  split_ifs at h
  case neg =>
    split at h
    · left; simpa [eq_comm] using h
    · exact boundaryMi_state h
  all_goals
    obtain h | h := h
    all_goals cases h
    all_goals simp

theorem envKept_of_boundary {s u : State} (h : u = s ∨ u = s.drawn 1) : EnvKept s u := by
  obtain rfl | rfl := h
  · exact .of_same rfl rfl rfl rfl
  · exact .drawn s 1

/-- Settles O4, by the three kinds of step: a reset, an acceptance, an instruction. -/
theorem stepKeepsDevice : Obligations.StepKeepsDevice := by
  intro s t h
  suffices hk : EnvKept s t from ⟨hk.dev, hk.req, hk.resetIn, hk.stores⟩
  unfold step at h
  split at h
  next => exact .acceptReset h
  next q u hb => exact (envKept_of_boundary (boundary_state (.inl hb))).trans (.acceptRequest h)
  next u hb =>
    obtain ⟨i, -, h⟩ := andThen_eq_next h
    exact (envKept_of_boundary (boundary_state (q := .nmi) (.inr hb))).trans (.of_ended (exec_ends i u t h))

end Sys2Proof.Proofs.Scope
end

section
/-! SUPPORT. Loads and stores of register groups that memory-mapped devices share (00_scope.md R7, log 8): for O60. -/
namespace Sys2Proof.Proofs.Scope
open Sys2Proof Sys2Proof.Machine

/-! The end of a transfer -/

/-- What `r` answers has the EA and the PC of `s`. -/
def KeepsEaPc (s : State) (r : Res State) : Prop := ∀ t, r = .next t → t.ea = s.ea ∧ t.pc = s.pc

theorem andThen_congr {α β : Type} {x : Res α} {f g : α → Res β} (h : ∀ a, x = .next a → f a = g a) :
    andThen x f = andThen x g := by
  cases x with
  | next a => exact h a rfl
  | fault e => rfl
  | refused e => rfl

theorem needCoprocessor_eq_next {s t : State} (h : s.needCoprocessor = .next t) : t = s := by
  unfold State.needCoprocessor at h
  split at h
  · cases h
  · cases h
    rfl

namespace KeepsEaPc

/-- A one-word form that leaves EA alone. -/
theorem done {s : State} {r : Res State} (h : KeepsEaPc s r) :
    (andThen r fun t => .next t.done) = andThen r fun t => .next ((t.setEa s.ea).finish s.nextPc) := by
  refine andThen_congr fun t ht => ?_
  obtain ⟨hea, hpc⟩ := h t ht
  rw [State.nextPc, ← hea, ← hpc]
  rfl

/-- A two-word form that leaves EA alone. -/
theorem done2 {s : State} {r : Res State} (h : KeepsEaPc s r) :
    (andThen r fun t => .next t.done2) = andThen r fun t => .next ((t.setEa s.ea).finish s.nextPc2) := by
  refine andThen_congr fun t ht => ?_
  obtain ⟨hea, hpc⟩ := h t ht
  rw [State.nextPc2, ← hea, ← hpc]
  rfl

/-- A form through `[EA+]` of `k` bytes (20_memory.md R127). -/
theorem bumped {s : State} {r : Res State} (h : KeepsEaPc s r) (k : Nat) :
    (andThen r fun t => .next (t.bumpEa k).done) =
      andThen r fun t => .next ((t.setEa (eaAfter k s.ea)).finish s.nextPc) := by
  refine andThen_congr fun t ht => ?_
  obtain ⟨hea, hpc⟩ := h t ht
  rw [State.nextPc, ← hea, ← hpc]
  rfl

theorem loadRegs (s : State) (off : Word) (n : Reg) (k : Nat) : KeepsEaPc s (s.loadRegs off n k) := by
  intro t h
  obtain ⟨bs, d, -, rfl⟩ := State.loadRegs_eq_next h
  simp

theorem writeMem (s : State) (seg : Byte) (off : Word) (bytes : List Byte) :
    KeepsEaPc s (s.writeMem seg off bytes) := by
  intro t h
  rw [(State.writeMem_eq_next h).1]
  exact ⟨rfl, rfl⟩

theorem loadCregs (s : State) (n : Reg) (k : Nat) : KeepsEaPc s (s.loadCregs n k) := by
  intro t h
  obtain ⟨s0, h0, h⟩ := andThen_eq_next h
  obtain ⟨p, hp, h⟩ := andThen_eq_next h
  cases h
  have h1 := (State.readBytes_eq_next hp).1
  obtain rfl := needCoprocessor_eq_next h0
  rw [h1]
  simp

theorem storeCregs (s : State) (m : Reg) (k : Nat) : KeepsEaPc s (s.storeCregs m k) := by
  intro t h
  obtain ⟨s0, h0, hw⟩ := andThen_eq_next h
  obtain rfl := needCoprocessor_eq_next h0
  obtain ⟨hea, hpc⟩ := writeMem (s0.cregsDrawn k) s0.dseg s0.offEa (s0.cregs m k) t hw
  have hd : (s0.cregsDrawn k).ea = s0.ea ∧ (s0.cregsDrawn k).pc = s0.pc := by
    unfold State.cregsDrawn
    split
    · exact ⟨rfl, rfl⟩
    · exact ⟨rfl, rfl⟩
  exact ⟨hea.trans hd.1, hpc.trans hd.2⟩

end KeepsEaPc

/-- A transfer is the access `r` and then the end its form names. -/
def Transfer.isAccess (s : State) (x : Transfer) (r : Res State) : Prop :=
  exec x.instr s = andThen r fun t => .next ((t.setEa x.ea).finish x.next)

theorem loadForms_exec (s : State) (n m : Reg) (disp dadr : Word) (d6 : BitVec 6) :
    ∀ x ∈ loadForms s n m disp dadr d6, x.size ≤ 8 ∧ Transfer.isAccess s x (s.loadRegs x.off n x.size) := by
  have keeps := KeepsEaPc.loadRegs s
  simp only [loadForms, List.forall_mem_cons, List.not_mem_nil, false_implies, implies_true, and_true]
  refine ⟨⟨?_, (keeps _ n 1).done⟩, ⟨?_, (keeps _ n 1).bumped 1⟩, ⟨?_, (keeps _ n 1).done⟩, ⟨?_, (keeps _ n 1).done2⟩,
    ⟨?_, (keeps _ n 1).done⟩, ⟨?_, (keeps _ n 1).done⟩, ⟨?_, (keeps _ n 1).done2⟩, ⟨?_, (keeps _ n 2).done⟩,
    ⟨?_, (keeps _ n 2).bumped 2⟩, ⟨?_, (keeps _ n 2).done⟩, ⟨?_, (keeps _ n 2).done2⟩, ⟨?_, (keeps _ n 2).done⟩,
    ⟨?_, (keeps _ n 2).done⟩, ⟨?_, (keeps _ n 2).done2⟩, ⟨?_, (keeps _ n 4).done⟩, ⟨?_, (keeps _ n 4).bumped 4⟩,
    ⟨?_, (keeps _ n 8).done⟩, ⟨?_, (keeps _ n 8).bumped 8⟩⟩
  all_goals decide

theorem storeForms_exec (s : State) (n m : Reg) (disp dadr : Word) (d6 : BitVec 6) :
    ∀ x ∈ storeForms s n m disp dadr d6, x.size ≤ 8 ∧ Transfer.isAccess s x (s.storeRegs x.off n x.size) := by
  have keeps (off : Word) (k : Nat) : KeepsEaPc s (s.storeRegs off n k) := KeepsEaPc.writeMem s _ off _
  simp only [storeForms, List.forall_mem_cons, List.not_mem_nil, false_implies, implies_true, and_true]
  refine ⟨⟨?_, (keeps _ 1).done⟩, ⟨?_, (keeps _ 1).bumped 1⟩, ⟨?_, (keeps _ 1).done⟩, ⟨?_, (keeps _ 1).done2⟩,
    ⟨?_, (keeps _ 1).done⟩, ⟨?_, (keeps _ 1).done⟩, ⟨?_, (keeps _ 1).done2⟩, ⟨?_, (keeps _ 2).done⟩,
    ⟨?_, (keeps _ 2).bumped 2⟩, ⟨?_, (keeps _ 2).done⟩, ⟨?_, (keeps _ 2).done2⟩, ⟨?_, (keeps _ 2).done⟩,
    ⟨?_, (keeps _ 2).done⟩, ⟨?_, (keeps _ 2).done2⟩, ⟨?_, (keeps _ 4).done⟩, ⟨?_, (keeps _ 4).bumped 4⟩,
    ⟨?_, (keeps _ 8).done⟩, ⟨?_, (keeps _ 8).bumped 8⟩⟩
  all_goals decide

/-- Every coprocessor transfer is through EA (45_coprocessor.md R371). -/
theorem coLoadForms_exec (s : State) (n : Reg) :
    ∀ x ∈ coLoadForms s n, x.size ≤ 8 ∧ x.off = s.ea ∧ x.next = s.nextPc ∧
      Transfer.isAccess s x (s.loadCregs n x.size) := by
  have keeps := KeepsEaPc.loadCregs s n
  simp only [coLoadForms, List.forall_mem_cons, List.not_mem_nil, false_implies, implies_true, and_true, true_and]
  refine ⟨⟨?_, (keeps 1).done⟩, ⟨?_, (keeps 1).bumped 1⟩, ⟨?_, (keeps 2).done⟩,
    ⟨?_, (keeps 2).bumped 2⟩, ⟨?_, (keeps 4).done⟩, ⟨?_, (keeps 4).bumped 4⟩,
    ⟨?_, (keeps 8).done⟩, ⟨?_, (keeps 8).bumped 8⟩⟩
  all_goals decide

theorem coStoreForms_exec (s : State) (m : Reg) :
    ∀ x ∈ coStoreForms s m, x.size ≤ 8 ∧ x.off = s.ea ∧ x.next = s.nextPc ∧
      Transfer.isAccess s x (s.storeCregs m x.size) := by
  have keeps := KeepsEaPc.storeCregs s m
  simp only [coStoreForms, List.forall_mem_cons, List.not_mem_nil, false_implies, implies_true, and_true, true_and]
  refine ⟨⟨?_, (keeps 1).done⟩, ⟨?_, (keeps 1).bumped 1⟩, ⟨?_, (keeps 2).done⟩,
    ⟨?_, (keeps 2).bumped 2⟩, ⟨?_, (keeps 4).done⟩, ⟨?_, (keeps 4).bumped 4⟩,
    ⟨?_, (keeps 8).done⟩, ⟨?_, (keeps 8).bumped 8⟩⟩
  all_goals decide

/-! Loads -/

theorem setRegs_asSeen (s u : State) (n : Reg) (bs : List Byte) (m : Memory) :
    (asSeen s u m).setRegs n bs = asSeen s (u.setRegs n bs) m := u.setRegs_with n bs m s.draws

theorem setCregs_asSeen (s u : State) (n : Reg) (bs : List Byte) (m : Memory) :
    (asSeen s u m).setCregs n bs = asSeen s (u.setCregs n bs) m := u.setCregs_with n bs m s.draws

/-- Draws and memory aside, the state before an access is the same where the core sees `m`. -/
theorem asSeen_drawn_latchAr (s : State) (c : Nat) (off : Word) (m : Memory) :
    asSeen s ((s.drawn c).latchAr off) m = ({ s with mem := m } : State).latchAr off := rfl

/-- A load that devices share has loaded from the memory the core sees. -/
theorem readsThrough_load {s : State} {off : Word} {n : Reg} {k : Nat} (next ea : Word) (hm : s.mem.wf) (hk : k ≤ 8)
    (h : answered s s.dseg (alignOff k off) k) :
    ∃ t, (andThen (s.loadRegs off n k) fun t => .next ((t.setEa ea).finish next)) = .next t ∧
      readsThrough s t (keysOf s.dev s.dseg (alignOff k off) k) fun a b => loaded a b next off n k ea := by
  obtain ⟨m, hseen, hload⟩ := s.loadRegs_of_answered off n k hm (by omega) h
  refine ⟨_, by rw [hload, andThen_next], m, hseen, ?_, by simp, by simp⟩
  have hl := loaded_finish { s with mem := m } next off n k ea (by omega)
  rwa [← asSeen_drawn_latchAr s (deviceCount s (keysOf s.dev s.dseg (alignOff k off) k)), setRegs_asSeen] at hl

/-- The coprocessor register group read back after it was written. -/
theorem cregsOf_setCregs (s : State) (n : Reg) (bs : List Byte) (h : bs.length ≤ 16) :
    cregsOf (s.setCregs n bs) n bs.length = bs := by
  apply List.ext_getElem (by simp [cregsOf])
  intro i _ hi
  simp [cregsOf, State.creg_setCregs _ _ _ _ h, Nat.mod_eq_of_lt (show i < 16 by omega), hi]

/-- The state after a load of coprocessor registers, as Safety says it. -/
theorem coLoaded_finish (s : State) (n : Reg) (k : Nat) (ea : Word) (hk : k ≤ 16) :
    coLoaded s
      ((((s.latchAr s.ea).setCregs n (bytesAt s s.dseg (alignOff k s.ea) k)).setEa ea).finish s.nextPc) n k ea := by
  refine ⟨continuesAt_finish (by simp) (by simp), ?_, fun x hx => ?_, fun x _ => by simp, fun x _ => by simp, by simp,
    ?_⟩
  · have h := cregsOf_setCregs (s.latchAr s.ea) n (bytesAt s s.dseg (alignOff k s.ea) k) (by simpa using hk)
    simpa [cregsOf] using h
  · have h := State.setCregs_frame (s.latchAr s.ea) n (bytesAt s s.dseg (alignOff k s.ea) k) (by simpa using hk) x
      (by simpa using hx)
    simpa using h
  · rw [State.setCregs_only]
    rfl

/-- A load of coprocessor registers that devices share has loaded from the memory the core sees. -/
theorem readsThrough_coLoad {s : State} {n : Reg} {k : Nat} (ea : Word) (hm : s.mem.wf) (hk : k ≤ 8)
    (hc : s.dev.coprocessor ≠ .absent) (h : answered s s.dseg (alignOff k s.ea) k) :
    ∃ t, (andThen (s.loadCregs n k) fun t => .next ((t.setEa ea).finish s.nextPc)) = .next t ∧
      readsThrough s t (keysOf s.dev s.dseg (alignOff k s.ea) k) fun a b => coLoaded a b n k ea := by
  obtain ⟨bs, hread, hlen, hbytes⟩ := s.readBytes_of_answered s.dseg (alignOff k s.ea) k h
  obtain ⟨m, hseen, hm2⟩ := seenMemory_of_bytes s s.dseg (alignOff k s.ea) bs hm (by omega) hbytes
  rw [hlen] at hm2
  have hload : s.loadCregs n k =
      .next (((s.drawn (deviceCount s (keysOf s.dev s.dseg (alignOff k s.ea) k))).latchAr s.ea).setCregs n
        (bytesAt { s with mem := m } s.dseg (alignOff k s.ea) k)) := by
    rw [State.loadCregs, State.needCoprocessor, if_neg hc, andThen_next, State.readMem, State.offEa, hread,
      andThen_next, hm2]
  refine ⟨_, by rw [hload, andThen_next], m, hseen, ?_, by simp, by simp⟩
  have hl := coLoaded_finish { s with mem := m } n k ea (by omega)
  rwa [← asSeen_drawn_latchAr s (deviceCount s (keysOf s.dev s.dseg (alignOff k s.ea) k)), setCregs_asSeen] at hl

/-! Stores -/

/-- A store of general registers where memory or devices take the bytes. -/
theorem taken_store {s : State} {off : Word} {n : Reg} {k : Nat} (next ea : Word) (hm : s.mem.wf) (hk : k ≤ 8)
    (h : takes s s.dseg (alignOff k off) k) :
    ∃ t, (andThen (s.storeRegs off n k) fun t => .next ((t.setEa ea).finish next)) = .next t ∧
      taken s t next off (s.regs n k) ea := by
  obtain ⟨t, ht, heq, htaken, -⟩ :=
    s.writeMem_of_takes s.dseg off (s.regs n k) hm (by simp; omega) (by rwa [State.regs_length])
  exact ⟨_, by rw [State.storeRegs, ht, andThen_next], taken_finish ea heq htaken⟩

/-- The state before a store of coprocessor registers, whose reading may draw free values (45_coprocessor.md R388). -/
theorem cregsDrawn_eq (s : State) (k : Nat) :
    s.cregsDrawn k = { s with draws := s.draws + if s.dev.coprocessor = .device then k else 0 } := by
  unfold State.cregsDrawn
  split
  · rfl
  · rfl

/-- A store of coprocessor registers where memory or devices take the bytes. -/
theorem coTaken_store {s : State} {m : Reg} {k : Nat} (ea : Word) (hm : s.mem.wf) (hk : k ≤ 8)
    (hc : s.dev.coprocessor ≠ .absent) (h : takes s s.dseg (alignOff k s.ea) k) :
    ∃ t, (andThen (s.storeCregs m k) fun t => .next ((t.setEa ea).finish s.nextPc)) = .next t ∧
      coTaken s t m k ea := by
  have hstore : s.storeCregs m k = (s.cregsDrawn k).writeMem s.dseg s.ea (s.cregs m k) := by
    rw [State.storeCregs, State.needCoprocessor, if_neg hc, andThen_next, State.offEa]
  rw [cregsDrawn_eq] at hstore
  obtain ⟨t, ht, heq, htaken, -⟩ := State.writeMem_of_takes
    { s with draws := s.draws + if s.dev.coprocessor = .device then k else 0 } s.dseg s.ea (s.cregs m k) hm
    (by simp; omega) (by rwa [State.cregs_length])
  refine ⟨_, by rw [hstore, ht, andThen_next], continuesAt_finish (by rw [heq]; rfl) (by rw [heq]; rfl),
    fun x _ => by rw [heq]; rfl, by rw [heq]; rfl, ⟨s.cregs m k, by simp, s.cregs_of_storage m k, ?_⟩, ?_⟩
  · rwa [State.cregs_length] at htaken
  · rw [heq]
    rfl

end Sys2Proof.Proofs.Scope
end

section
/-! SUPPORT. POP from a stack that memory-mapped devices share (00_scope.md R7, log 8): for O60. -/
namespace Sys2Proof.Proofs.Scope
open Sys2Proof Sys2Proof.Machine

/-! POP of general registers -/

/-- `s` after the pops of a frame of `size` bytes of which `k` were read, `c` values having been drawn in all. -/
def poppedUp (s : State) (k size c : Nat) : State :=
  { s with sp := s.sp + BitVec.ofNat 16 size, ar := s.sp + BitVec.ofNat 16 (k - 1), draws := c }

theorem asSeen_poppedUp (s : State) (k size c : Nat) (m : Memory) :
    asSeen s (poppedUp s k size c) m = poppedUp { s with mem := m } k size s.draws := rfl

/-- The state after a POP of general registers, as Safety says it. -/
theorem popped_finish (s : State) (n : Reg) (k size : Nat) (hk : k ≤ 16) :
    popped s (((poppedUp s k size s.draws).setRegs n (bytesAt s 0 s.sp k)).finish s.nextPc) n k size := by
  have hlen : (bytesAt s 0 s.sp k).length ≤ 16 := by simpa using hk
  refine ⟨continuesAt_finish ?_ ?_, ?_, fun x hx => ?_, fun x _ => ?_, ?_, ?_⟩
  case refine_3 =>
    have h := State.regs_setRegs (poppedUp s k size s.draws) n (bytesAt s 0 s.sp k) hlen
    simpa [State.regs] using h
  case refine_4 =>
    exact State.setRegs_frame (poppedUp s k size s.draws) n (bytesAt s 0 s.sp k) hlen x (by simpa using hx)
  all_goals simp [poppedUp, State.special]

/-- The same where the core sees `m`. -/
theorem readsThrough_popped {s : State} {m : Memory} (n : Reg) (k size : Nat) (hk : k ≤ 16) (hseen : seenMemory s m) :
    readsThrough s
      (((poppedUp s k size (s.draws + deviceCount s (keysOf s.dev 0 s.sp k))).setRegs n
        (bytesAt { s with mem := m } 0 s.sp k)).finish s.nextPc)
      (keysOf s.dev 0 s.sp k) fun a b => popped a b n k size := by
  refine ⟨m, hseen, ?_, by simp [poppedUp], by simp [poppedUp]⟩
  have h := popped_finish { s with mem := m } n k size hk
  rwa [← asSeen_poppedUp s k size (s.draws + deviceCount s (keysOf s.dev 0 s.sp k)) m, setRegs_asSeen] at h

/-- The memory the core sees on a stack that devices share, where it pops `k` bytes from SP upwards. -/
theorem popsAs_range {s : State} {k : Nat} (hm : s.mem.wf) (hk : k ≤ 16) (h : answered s 0 s.sp k) :
    ∃ m, seenMemory s m ∧
      (∀ i < k, popsAs s { s with mem := m } (fun j => s.draws + deviceBelow s (List.range k) j) i) ∧
      deviceBelow s (List.range k) k = deviceCount s (keysOf s.dev 0 s.sp k) := by
  obtain ⟨m, hseen, hpops⟩ := popsAs_of_answered s (List.range k) hm List.nodup_range
    (fun i hi => by rw [List.mem_range] at hi; omega) h
  exact ⟨m, hseen, fun i hi => hpops i (List.mem_range.2 hi), deviceBelow_all s _ k fun j => List.mem_range.1⟩

/-- POP of a group of `k` registers that fills its frame. -/
theorem readsThrough_popAll {s : State} (n : Reg) {k : Nat} (hm : s.mem.wf) (hk : k ≤ 16) (hpos : 0 < k)
    (h : answered s 0 s.sp k) :
    ∃ t, (andThen (s.popAll k) fun p => .next (p.2.setRegs n p.1).done) = .next t ∧
      readsThrough s t (keysOf s.dev 0 s.sp k) fun a b => popped a b n k k := by
  obtain ⟨m, hseen, hpops, hcount⟩ := popsAs_range hm hk h
  have hall := popAll_as (s := s) (v := { s with mem := m }) (u := s) (i := 0)
    (d := fun j => s.draws + deviceBelow s (List.range k) j) k rfl rfl (by simp) (by simp [deviceBelow_zero])
    (fun j hj => by simpa using hpops j hj)
  have hbytes : ((List.range k).map fun j => stackByte { s with mem := m } (0 + j)) =
      bytesAt { s with mem := m } 0 s.sp k := by
    simp [bytesAt, keysOf, stackByte, Function.comp_def]
  rw [hbytes] at hall
  simp only [Nat.zero_add, hcount, Nat.ne_of_gt hpos, if_false] at hall
  refine ⟨_, by rw [hall, andThen_next], ?_⟩
  have hr := readsThrough_popped n k k hk hseen
  simpa [State.nextPc, poppedUp] using hr

/-- POP Rn reads one byte of its frame of two (44_push_pop.md R345). -/
theorem readsThrough_popRn {s : State} (n : Reg) (hm : s.mem.wf) (h : answered s 0 s.sp 1) :
    ∃ t, exec (.popRn n) s = .next t ∧
      readsThrough s t (keysOf s.dev 0 s.sp 1) fun a b => popped a b n 1 2 := by
  obtain ⟨m, hseen, hpops, hcount⟩ := popsAs_range hm (by omega) h
  have hpop := hpops 0 (by omega) s rfl rfl (by simp) (by simp [deviceBelow_zero])
  have hsp : s.sp + BitVec.ofNat 16 1 + 1 = s.sp + BitVec.ofNat 16 2 := by rw [BitVec.add_assoc]; rfl
  simp only [Nat.zero_add, hcount] at hpop
  refine ⟨(((popStep s s 0 (s.draws + deviceCount s (keysOf s.dev 0 s.sp 1))).skip8.setRegs n
    [stackByte { s with mem := m } 0]).finish s.nextPc), andThen_of hpop _, ?_⟩
  have hr := readsThrough_popped n 1 2 (by omega) hseen
  rw [poppedUp, ← hsp] at hr
  exact hr

/-- POP of general registers on a stack that devices share. -/
theorem popForms_readThrough {s : State} (n : Reg) (hm : s.mem.wf) :
    ∀ x ∈ popForms n, answered s 0 s.sp x.2.1 →
      ∃ t, exec x.1 s = .next t ∧
        readsThrough s t (keysOf s.dev 0 s.sp x.2.1) fun a b => popped a b n x.2.1 x.2.2 := by
  simp only [popForms, List.forall_mem_cons, List.not_mem_nil, false_implies, implies_true, and_true]
  exact ⟨readsThrough_popRn n hm, readsThrough_popAll n hm (by omega) (by omega),
    readsThrough_popAll n hm (by omega) (by omega), readsThrough_popAll n hm (by omega) (by omega)⟩

/-! POP register_list -/

/-- POP register_list by its list nibble: EA, LR, PSW and PC in this order, as far as they are named (44_push_pop.md
R349). -/
def popList (lepa : BitVec 4) (s : State) : Res State :=
  andThen (if lepa.getLsbD 0 then s.popEaItem else .next s) fun s1 =>
    andThen (if lepa.getLsbD 3 then s1.popLrItem else .next s1) fun s2 =>
      andThen (if lepa.getLsbD 2 then s2.popPswItem else .next s2) fun s3 =>
        if lepa.getLsbD 1 then s3.popPcItem else .next s3.done

theorem popLists_exec (s : State) : ∀ p ∈ popLists, exec p.2 s = popList p.1 s := by
  simp only [popLists, List.forall_mem_cons, List.not_mem_nil, false_implies, implies_true, and_true]
  exact ⟨rfl, rfl, rfl, rfl, rfl, rfl, rfl, rfl, rfl, rfl, rfl, rfl, rfl, rfl, rfl⟩

/-- AR after pops at the distances `is` above the SP of `s`: the last of them, if there is one. -/
def arAfter (s : State) (ar : Word) (is : List Nat) : Word :=
  (is.getLast?.map fun i => s.sp + BitVec.ofNat 16 i).getD ar

theorem arAfter_append (s : State) (ar : Word) (is js : List Nat) :
    arAfter s ar (is ++ js) = arAfter s (arAfter s ar is) js := by
  cases h : js.getLast? <;> simp [arAfter, List.getLast?_append, h]

theorem arAfter_returnReads (s : State) (ar : Word) (i : Nat) :
    arAfter s ar (returnReads s i) = s.sp + BitVec.ofNat 16 (if s.isLarge then i + 2 else i + 1) := by
  unfold returnReads
  split
  · rfl
  · rfl

/-- `u` stands between two pops from the stack of `s`: SP is `i` bytes above that of `s`, `d i` values have been drawn,
and the stack is as it was. -/
structure PoppedTo (s u : State) (d : Nat → Nat) (i : Nat) : Prop where
  mem : u.mem = s.mem
  dev : u.dev = s.dev
  sp : u.sp = s.sp + BitVec.ofNat 16 i
  draws : u.draws = d i

section
variable {s v u : State} {d : Nat → Nat} {i : Nat} (b : Bool)

theorem optEa_as (hu : PoppedTo s u d i) (hr : ∀ j ∈ if b then [i, i + 1] else [], popsAs s v d j) :
    (if b then u.popEaItem else .next u) =
      .next { u with
        ea := if b then stackWord v i else u.ea
        ar := arAfter s u.ar (if b then [i, i + 1] else [])
        sp := s.sp + BitVec.ofNat 16 (i + if b then 2 else 0)
        draws := d (i + if b then 2 else 0) } := by
  cases b with
  | false => simp [arAfter, ← hu.sp, ← hu.draws]
  | true => exact popEaItem_as hu.mem hu.dev hu.sp hu.draws hr

theorem optLr_as (hu : PoppedTo s u d i) (hr : ∀ j ∈ if b then returnReads s i else [], popsAs s v d j)
    (hskip : b = true → s.isLarge = true → d (i + 4) = d (i + 3)) :
    (if b then u.popLrItem else .next u) =
      .next { u with
        lr := if b then stackWord v i &&& 0xFFFE#16 else u.lr
        lcsr := if b && s.isLarge then (stackByte v (i + 2)).extractLsb' 0 4 else u.lcsr
        ar := arAfter s u.ar (if b then returnReads s i else [])
        sp := s.sp + BitVec.ofNat 16 (i + if b then returnSize s else 0)
        draws := d (i + if b then returnSize s else 0) } := by
  cases b with
  | false => simp [arAfter, ← hu.sp, ← hu.draws]
  | true =>
    simp only [if_true, arAfter_returnReads, Bool.true_and]
    exact popLrItem_as hu.mem hu.dev hu.sp hu.draws hr (hskip rfl)

theorem optPsw_as (hu : PoppedTo s u d i) (hr : ∀ j ∈ if b then [i] else [], popsAs s v d j)
    (hskip : b = true → d (i + 2) = d (i + 1)) :
    (if b then u.popPswItem else .next u) =
      .next { u with
        psw := if b then stackByte v i else u.psw
        ar := arAfter s u.ar (if b then [i] else [])
        sp := s.sp + BitVec.ofNat 16 (i + if b then 2 else 0)
        draws := d (i + if b then 2 else 0) } := by
  cases b with
  | false => simp [arAfter, ← hu.sp, ← hu.draws]
  | true => exact popPswItem_as hu.mem hu.dev hu.sp hu.draws (hr i (List.mem_singleton_self i)) (hskip rfl)

theorem optPc_as (hu : PoppedTo s u d i) (hr : ∀ j ∈ if b then returnReads s i else [], popsAs s v d j)
    (hskip : b = true → s.isLarge = true → d (i + 4) = d (i + 3)) :
    (if b then u.popPcItem else .next u.done) =
      .next (({ u with
        csr := if b && s.isLarge then (stackByte v (i + 2)).extractLsb' 0 4 else u.csr
        ar := arAfter s u.ar (if b then returnReads s i else [])
        sp := s.sp + BitVec.ofNat 16 (i + if b then returnSize s else 0)
        draws := d (i + if b then returnSize s else 0) } : State).finish (if b then stackWord v i else u.nextPc)) := by
  cases b with
  | false => simp [arAfter, ← hu.sp, ← hu.draws]
  | true =>
    simp only [if_true, arAfter_returnReads, Bool.true_and]
    exact popPcItem_as hu.mem hu.dev hu.sp hu.draws hr (hskip rfl)

end

/-- The state after POP register_list on the stack of `s`, where the stack bytes are those of `v` and `c` values have
been drawn in all. -/
def poppedState (s v : State) (lepa : BitVec 4) (c : Nat) : State :=
  ({ s with
    ea := if lepa.getLsbD 0 then stackWord v 0 else s.ea
    lr := if lepa.getLsbD 3 then stackWord v (popOffsets s lepa).1 &&& 0xFFFE#16 else s.lr
    lcsr := if lepa.getLsbD 3 && s.isLarge then (stackByte v ((popOffsets s lepa).1 + 2)).extractLsb' 0 4 else s.lcsr
    psw := if lepa.getLsbD 2 then stackByte v (popOffsets s lepa).2.1 else s.psw
    csr := if lepa.getLsbD 1 && s.isLarge then (stackByte v ((popOffsets s lepa).2.2.1 + 2)).extractLsb' 0 4 else s.csr
    sp := s.sp + BitVec.ofNat 16 (popOffsets s lepa).2.2.2
    ar := arAfter s s.ar (popReads s lepa)
    draws := c } : State).finish (if lepa.getLsbD 1 then stackWord v (popOffsets s lepa).2.2.1 else s.nextPc)

/-- The distances at which POP register_list skips a dummy byte instead of reading it (44_push_pop.md R353). -/
def skipsFree (s : State) (lepa : BitVec 4) (d : Nat → Nat) : Prop :=
  (lepa.getLsbD 3 = true → s.isLarge = true → d ((popOffsets s lepa).1 + 4) = d ((popOffsets s lepa).1 + 3)) ∧
    (lepa.getLsbD 2 = true → d ((popOffsets s lepa).2.1 + 2) = d ((popOffsets s lepa).2.1 + 1)) ∧
    (lepa.getLsbD 1 = true → s.isLarge = true →
      d ((popOffsets s lepa).2.2.1 + 4) = d ((popOffsets s lepa).2.2.1 + 3))

theorem popList_as {s v : State} {lepa : BitVec 4} {d : Nat → Nat} (h0 : d 0 = s.draws)
    (hr : ∀ j ∈ popReads s lepa, popsAs s v d j) (hskip : skipsFree s lepa d) :
    popList lepa s = .next (poppedState s v lepa (d (popOffsets s lepa).2.2.2)) := by
  obtain ⟨hlr, hpsw, hpc⟩ := hskip
  simp only [popReads, List.mem_append, or_imp, forall_and] at hr
  obtain ⟨⟨⟨hr0, hr3⟩, hr2⟩, hr1⟩ := hr
  have hea := optEa_as (u := s) (d := d) (i := 0) (lepa.getLsbD 0) ⟨rfl, rfl, by simp, h0.symm⟩ hr0
  simp only [Nat.zero_add] at hea
  refine (andThen_of hea _).trans ?_
  refine Eq.trans (andThen_of (optLr_as (d := d) _ (by exact ⟨rfl, rfl, rfl, rfl⟩) hr3 hlr) _) ?_
  refine Eq.trans (andThen_of (optPsw_as (d := d) _ (by exact ⟨rfl, rfl, rfl, rfl⟩) hr2 hpsw) _) ?_
  refine Eq.trans (optPc_as (d := d) _ (by exact ⟨rfl, rfl, rfl, rfl⟩) hr1 hpc) ?_
  simp only [poppedState, popReads, arAfter_append]
  rfl

theorem popLists_ne_zero : ∀ p ∈ popLists, p.1 ≠ 0 := by decide

/-- The bytes POP register_list reads are different ones, all inside its frames; the dummy bytes are not among them
(44_push_pop.md R352, R353). -/
theorem popReads_layout (s : State) (lepa : BitVec 4) :
    (popReads s lepa).Nodup ∧ (∀ i ∈ popReads s lepa, i < (popOffsets s lepa).2.2.2) ∧
      (popOffsets s lepa).2.2.2 ≤ 12 ∧ (lepa ≠ 0 → popReads s lepa ≠ []) ∧
      (lepa.getLsbD 3 = true → s.isLarge = true → (popOffsets s lepa).1 + 3 ∉ popReads s lepa) ∧
      (lepa.getLsbD 2 = true → (popOffsets s lepa).2.1 + 1 ∉ popReads s lepa) ∧
      (lepa.getLsbD 1 = true → s.isLarge = true → (popOffsets s lepa).2.2.1 + 3 ∉ popReads s lepa) := by
  cases h : s.isLarge
  all_goals
    simp only [popReads, popOffsets, returnReads, returnSize, h]
    revert lepa
    decide

theorem arAfter_getLastD (s : State) (ar : Word) {is : List Nat} (h : is ≠ []) :
    arAfter s ar is = s.sp + BitVec.ofNat 16 (is.getLastD 0) := by
  rw [arAfter, List.getLast?_eq_some_getLast h, List.getLastD_eq_getLast?, List.getLast?_eq_some_getLast h]
  rfl

/-- The state after POP register_list, as Safety says it, where the core sees `m`. -/
theorem poppedList_asSeen {s : State} {m : Memory} {lepa : BitVec 4} (c : Nat) (h : popReads s lepa ≠ []) :
    poppedList { s with mem := m } (asSeen s (poppedState s { s with mem := m } lepa c) m) lepa := by
  refine ⟨continuesAt_finish rfl rfl, rfl, fun _ _ => rfl, fun _ _ => rfl, ?_⟩
  rw [poppedState, arAfter_getLastD s s.ar h]
  rfl

/-- POP register_list on a stack that devices share has popped from the memory the core sees. -/
theorem readsThrough_popList {s : State} {lepa : BitVec 4} (hm : s.mem.wf) (hne : lepa ≠ 0)
    (h : ∀ x ∈ stackKeys s (popReads s lepa), kindAt s.dev x ≠ none) :
    ∃ t, popList lepa s = .next t ∧
      readsThrough s t (stackKeys s (popReads s lepa)) fun a b => poppedList a b lepa := by
  obtain ⟨hnodup, hinside, hsize, hreads, hlr, hpsw, hpc⟩ := popReads_layout s lepa
  obtain ⟨m, hseen, hpops⟩ := popsAs_of_answered s (popReads s lepa) hm hnodup
    (fun i hi => by have := hinside i hi; omega) h
  have hskip : skipsFree s lepa fun j => s.draws + deviceBelow s (popReads s lepa) j :=
    ⟨fun hb hl => congrArg _ (deviceBelow_skip s hnodup (hlr hb hl)),
      fun hb => congrArg _ (deviceBelow_skip s hnodup (hpsw hb)),
      fun hb hl => congrArg _ (deviceBelow_skip s hnodup (hpc hb hl))⟩
  refine ⟨_, popList_as (by simp [deviceBelow_zero]) hpops hskip, m, hseen, poppedList_asSeen _ (hreads hne), rfl, ?_⟩
  exact congrArg _ (deviceBelow_all s _ _ hinside)

end Sys2Proof.Proofs.Scope
end

section
/-! SUPPORT. PUSH as the pushes of one frame (44_push_pop.md R340 to R344): for O60. -/
namespace Sys2Proof.Proofs.Scope
open Sys2Proof Sys2Proof.Machine

/-- Each PUSH of general registers is the pushes of its frame, the highest byte first (44_push_pop.md R340 to R343). -/
theorem pushForms_exec (s : State) (n : Reg) :
    ∀ x ∈ pushForms s n, x.2 ≠ [] ∧ x.2.length ≤ 8 ∧
      exec x.1 s = andThen (pushItems x.2.reverse s) fun t => .next t.done := by
  have group (k : Nat) : (andThen (s.pushAll (s.regs n k).reverse) fun t => .next t.done) =
      andThen (pushItems ((s.regs n k).map some).reverse s) fun t => .next t.done := by
    rw [pushAll_eq_pushItems, List.map_reverse]
  have rn : exec (.pushRn n) s = andThen (pushItems [none, some (s.reg n)] s) fun t => .next t.done := by
    refine pushItems_chain (xs := [none]) (ys := [some (s.reg n)]) ?_ fun s1 h1 => ?_
    · rw [pushItems]
      cases s.pushFree <;> rfl
    · rw [show s1.reg n = s.reg n by rw [h1]; rfl, pushItems]
      cases s1.push8 (s.reg n) <;> rfl
  simp only [pushForms, List.forall_mem_cons, List.not_mem_nil, false_implies, implies_true, and_true]
  refine ⟨⟨by simp, by simp, rn⟩, ⟨?_, by simp, group 2⟩, ⟨?_, by simp, group 4⟩, ⟨?_, by simp, group 8⟩⟩
  all_goals simp [State.regs]

/-- PUSH register_list by its list nibble: ELR, EPSW, LR and EA in this order, as far as they are named (44_push_pop.md
R344). -/
def pushList (lepa : BitVec 4) (s : State) : Res State :=
  andThen (if lepa.getLsbD 1 then s.pushElrItem else .next s) fun s1 =>
    andThen (if lepa.getLsbD 2 then s1.pushEpswItem else .next s1) fun s2 =>
      andThen (if lepa.getLsbD 3 then s2.pushLrItem else .next s2) fun s3 =>
        andThen (if lepa.getLsbD 0 then s3.pushEaItem else .next s3) fun s4 => .next s4.done

theorem pushLists_exec (s : State) : ∀ p ∈ pushLists, exec p.2 s = pushList p.1 s := by
  simp only [pushLists, List.forall_mem_cons, List.not_mem_nil, false_implies, implies_true, and_true]
  exact ⟨rfl, rfl, rfl, rfl, rfl, rfl, rfl, rfl, rfl, rfl, rfl, rfl, rfl, rfl, rfl⟩

theorem pushLists_ne_zero : ∀ p ∈ pushLists, p.1 ≠ 0 := by decide

/-- An item that is named or not is the pushes of its part of the frame. -/
theorem optItem_eq {s1 : State} {x : Res State} {part : List (Option Byte)} (b : Bool)
    (h : b = true → x = pushItems part.reverse s1) :
    (if b then x else .next s1) = pushItems (if b then part else []).reverse s1 := by
  cases b with
  | false => rfl
  | true => exact h rfl

/-- PUSH register_list is the pushes of its frame, the highest byte first (44_push_pop.md R344, R350). -/
theorem pushList_eq {s : State} {lepa : BitVec 4}
    (hp : lepa.getLsbD 1 = true ∨ lepa.getLsbD 2 = true → s.levelPresent s.useLevel = true) :
    pushList lepa s = andThen (pushItems (pushFrame s lepa).reverse s) fun t => .next t.done := by
  have elr := optItem_eq (s1 := s) (lepa.getLsbD 1) fun h => pushElrItem_eq s s (pushSame_refl s) (hp (.inl h))
  have epsw s1 (h1 : pushSame s s1) := optItem_eq (part := [s.epsw s.useLevel, none]) (lepa.getLsbD 2) fun h =>
    pushEpswItem_eq s s1 h1 (hp (.inr h))
  have lr s1 (h1 : pushSame s s1) := optItem_eq (lepa.getLsbD 3) fun _ => pushLrItem_eq s s1 h1
  have ea s1 (h1 : pushSame s s1) := optItem_eq (part := [some (s.ea.extractLsb' 0 8), some (s.ea.extractLsb' 8 8)])
    (lepa.getLsbD 0) fun _ => pushEaItem_eq s s1 h1
  simp only [pushFrame, List.reverse_append]
  exact pushItems_chain elr fun s1 h1 => pushItems_chain (epsw s1 h1) fun s2 h2 =>
    pushItems_chain (lr s2 (pushSame_trans h1 h2)) fun s3 h3 => by rw [ea s3 (pushSame_trans (pushSame_trans h1 h2) h3)]

/-- A frame is short, and not empty where the list names something. -/
theorem pushFrame_length (s : State) (lepa : BitVec 4) :
    (pushFrame s lepa).length ≤ 12 ∧ (lepa ≠ 0 → (pushFrame s lepa).length ≠ 0) := by
  cases h : s.isLarge
  all_goals
    simp only [pushFrame, returnFrame, h, List.length_append, apply_ite List.length, List.length_cons, List.length_nil]
    revert lepa
    decide

end Sys2Proof.Proofs.Scope
end

section
/-! SUPPORT. A device byte that is read and written back, and O60 put together. -/
namespace Sys2Proof.Proofs.Scope
open Sys2Proof Sys2Proof.Machine

theorem isDevice_of_kind {d : Device} {k : Nat} (h : kindAt d k = some .device) : isDevice d k = true := by
  simp [isDevice, h]

/-- A device takes a byte; only AR changes (00_scope.md R7, log 8). -/
theorem writeMem_of_device {s : State} {seg : Byte} {off : Word} (v : Byte) (hw : inRomWindow s.dev seg off = false)
    (hk : kindAt s.dev (dataKey s.dev seg off) = some .device) : s.writeMem seg off [v] = .next (s.latchAr off) := by
  have htakes : takes (s.latchAr off) seg off 1 := by
    intro i hi
    obtain rfl : i = 0 := by omega
    simpa using ⟨hw, .inr hk⟩
  have hb := (s.latchAr off).writeByte_of_takes seg off v htakes
  rw [if_neg (by rw [State.latchAr_dev, hk]; simp)] at hb
  exact andThen_of hb _

/-- An instruction that reads a byte and writes it back, on a device: a free byte, one draw, AR. -/
theorem update_of_device {s : State} {seg : Byte} {off : Word} (f : Byte → Byte) (g : Byte → State → Res State)
    (hw : inRomWindow s.dev seg off = false) (hk : kindAt s.dev (dataKey s.dev seg off) = some .device) :
    (andThen (s.readByte seg off) fun p => andThen (p.2.writeMem seg off [f p.1]) (g p.1)) =
      g (Config.freeByte s.draws) ((s.drawn 1).latchAr off) := by
  rw [State.readByte_of_device s seg off (isDevice_of_kind hk), andThen_next]
  exact andThen_of (writeMem_of_device (s := s.drawn 1) _ hw hk) _

/-- What such an instruction leaves unchanged: all but PSW, AR and the count of draws. -/
theorem onlySpecial_device (s : State) (off next : Word) :
    onlySpecial s (((s.drawn 1).latchAr off).finish next) next { s.special with ar := off, draws := s.draws + 1 } :=
  onlySpecial_finish rfl rfl (fun _ => rfl) rfl rfl rfl

/-- The flags of INC (49_muldiv_misc.md R482). -/
theorem pswIs_inc (p v : Byte) :
    pswIs (putZSOVHC p (addN v 1 false)) (flagC p) (decide (v = 0xFF#8)) (v + 1).msb (decide (v = 0x7F#8)) (flagMIE p)
      (decide (v.toNat % 16 = 15)) (elevelOf p) := by
  have hval : (addN v 1 false).val = v + 1 := by
    apply BitVec.eq_of_toNat_eq
    simp [addN]
  have hz : (addN v 1 false).z = decide (v = 0xFF#8) := by
    show ((addN v 1 false).val == 0) = _
    rw [hval, Bool.eq_iff_iff, beq_iff_eq, decide_eq_true_iff]
    bv_omega
  have hov : (addN v 1 false).ov = decide (v = 0x7F#8) := by
    rw [Bool.eq_iff_iff]
    simp only [addN, BitVec.msb_eq_decide, BitVec.toNat_ofNat, decide_eq_true_iff, ← BitVec.toNat_inj]
    simp
    omega
  have hhc : (addN v 1 false).hc = decide (v.toNat % 16 = 15) := by
    simp only [addN, decide_eq_decide]
    simp
    omega
  refine ⟨by simp, (flagZ_putZSOVHC _ _).trans hz, ?_, (flagOV_putZSOVHC _ _).trans hov, by simp,
    (flagHC_putZSOVHC _ _).trans hhc, by simp⟩
  rw [flagS_putZSOVHC, ← hval]
  rfl

/-- The flags of DEC (49_muldiv_misc.md R483). -/
theorem pswIs_dec (p v : Byte) :
    pswIs (putZSOVHC p (subN v 1 false)) (flagC p) (decide (v = 0x01#8)) (v - 1).msb (decide (v = 0x80#8)) (flagMIE p)
      (decide (v.toNat % 16 = 0)) (elevelOf p) := by
  have hval : (subN v 1 false).val = v - 1 := by
    apply BitVec.eq_of_toNat_eq
    simp [subN, BitVec.toNat_ofInt, BitVec.toNat_sub]
    omega
  have hz : (subN v 1 false).z = decide (v = 0x01#8) := by
    show ((subN v 1 false).val == 0) = _
    rw [hval, Bool.eq_iff_iff, beq_iff_eq, decide_eq_true_iff]
    bv_omega
  have hov : (subN v 1 false).ov = decide (v = 0x80#8) := by
    rw [Bool.eq_iff_iff]
    simp only [subN, BitVec.msb_eq_decide, BitVec.toNat_ofInt, decide_eq_true_iff, ← BitVec.toNat_inj]
    simp
    omega
  have hhc : (subN v 1 false).hc = decide (v.toNat % 16 = 0) := by
    simp only [subN, decide_eq_decide]
    simp
  refine ⟨by simp, (flagZ_putZSOVHC _ _).trans hz, ?_, (flagOV_putZSOVHC _ _).trans hov, by simp,
    (flagHC_putZSOVHC _ _).trans hhc, by simp⟩
  rw [flagS_putZSOVHC, ← hval]
  rfl

/-- INC and DEC of a device byte. -/
theorem incDec_of_device {s : State} (hk : kindAt s.dev (dataKey s.dev s.dseg s.ea) = some .device)
    (hw : inRomWindow s.dev s.dseg s.ea = false) :
    (∃ t, ∃ v : Byte, exec .incEa s = .next t ∧
      onlySpecial s { t with psw := s.psw } s.nextPc { s.special with ar := s.ea, draws := s.draws + 1 } ∧
      pswIs t.psw (flagC s.psw) (decide (v = 0xFF#8)) (v + 1).msb (decide (v = 0x7F#8)) (flagMIE s.psw)
        (decide (v.toNat % 16 = 15)) (elevelOf s.psw)) ∧
    ∃ t, ∃ v : Byte, exec .decEa s = .next t ∧
      onlySpecial s { t with psw := s.psw } s.nextPc { s.special with ar := s.ea, draws := s.draws + 1 } ∧
      pswIs t.psw (flagC s.psw) (decide (v = 0x01#8)) (v - 1).msb (decide (v = 0x80#8)) (flagMIE s.psw)
        (decide (v.toNat % 16 = 0)) (elevelOf s.psw) :=
  ⟨⟨_, Config.freeByte s.draws,
      update_of_device (fun v => (addN v 1 false).val)
        (fun v t => .next (t.setPsw (putZSOVHC t.psw (addN v 1 false))).done) hw hk,
      onlySpecial_device s s.ea s.nextPc, pswIs_inc s.psw _⟩,
    _, Config.freeByte s.draws,
      update_of_device (fun v => (subN v 1 false).val)
        (fun v t => .next (t.setPsw (putZSOVHC t.psw (subN v 1 false))).done) hw hk,
      onlySpecial_device s s.ea s.nextPc, pswIs_dec s.psw _⟩

/-- TB of a device byte, writable or not. -/
theorem tb_of_device {s : State} (bit : BitVec 3) {dadr : Word}
    (h : isDevice s.dev (dataKey s.dev s.dseg dadr) = true) :
    ∃ t, ∃ v : Byte, exec (.tbDbitadr bit dadr) s = .next t ∧
      onlySpecial s { t with psw := s.psw } s.nextPc2 { s.special with ar := dadr, draws := s.draws + 1 } ∧
      zFlag s.psw t.psw (!v.getLsbD bit.toNat) :=
  ⟨_, Config.freeByte s.draws, andThen_of (State.readByte_of_device s s.dseg dadr h) _,
    onlySpecial_device s dadr s.nextPc2, zFlag_putZ s.psw _⟩

/-- SB and RB of a device byte. -/
theorem sbRb_of_device {s : State} (bit : BitVec 3) {dadr : Word}
    (hk : kindAt s.dev (dataKey s.dev s.dseg dadr) = some .device) (hw : inRomWindow s.dev s.dseg dadr = false) :
    ∀ i ∈ [Instr.sbDbitadr bit dadr, .rbDbitadr bit dadr],
      ∃ t, ∃ v : Byte, exec i s = .next t ∧
        onlySpecial s { t with psw := s.psw } s.nextPc2 { s.special with ar := dadr, draws := s.draws + 1 } ∧
        zFlag s.psw t.psw (!v.getLsbD bit.toNat) := by
  have form (set : Bool) : ∃ t, ∃ v : Byte,
      (andThen (s.readByte s.dseg dadr) fun p =>
        andThen (p.2.writeMem s.dseg dadr [putBit p.1 bit.toNat set]) fun t => .next (t.testBit p.1 bit).done2) =
          .next t ∧
        onlySpecial s { t with psw := s.psw } s.nextPc2 { s.special with ar := dadr, draws := s.draws + 1 } ∧
        zFlag s.psw t.psw (!v.getLsbD bit.toNat) :=
    ⟨_, Config.freeByte s.draws,
      update_of_device (fun v => putBit v bit.toNat set) (fun v t => .next (t.testBit v bit).done2) hw hk,
      onlySpecial_device s dadr s.nextPc2, zFlag_putZ s.psw _⟩
  simp only [List.forall_mem_cons, List.not_mem_nil, false_implies, implies_true, and_true]
  exact ⟨form true, form false⟩

/-- Settles O60: reads find the memory the core sees, writes reach writable memory only, and a byte that is read and
written back on a device changes AR, PSW and the count of draws. -/
theorem deviceAccesses : Obligations.DeviceAccesses := by
  refine ⟨fun s n m disp dadr d6 hm => ⟨?_, ?_, popForms_readThrough n hm, ?_⟩,
    fun s n m disp dadr d6 hm => ⟨?_, ?_, ?_, ?_⟩,
    fun s bit dadr => ⟨incDec_of_device, tb_of_device bit, sbRb_of_device bit⟩⟩
  · intro x hx h
    obtain ⟨hsize, hexec⟩ := loadForms_exec s n m disp dadr d6 x hx
    rw [Transfer.isAccess] at hexec
    rw [hexec]
    exact readsThrough_load x.next x.ea hm hsize h
  · intro hc x hx h
    obtain ⟨hsize, hoff, hnext, hexec⟩ := coLoadForms_exec s n x hx
    rw [Transfer.isAccess, hnext] at hexec
    rw [hexec]
    rw [hoff] at h ⊢
    exact readsThrough_coLoad x.ea hm hsize hc h
  · intro p hp h
    rw [popLists_exec s p hp]
    exact readsThrough_popList hm (popLists_ne_zero p hp) h
  · intro x hx h
    obtain ⟨hsize, hexec⟩ := storeForms_exec s n m disp dadr d6 x hx
    rw [Transfer.isAccess] at hexec
    rw [hexec]
    exact taken_store x.next x.ea hm hsize h
  · intro hc x hx h
    obtain ⟨hsize, hoff, hnext, hexec⟩ := coStoreForms_exec s m x hx
    rw [Transfer.isAccess, hnext] at hexec
    rw [hexec]
    rw [hoff] at h
    exact coTaken_store x.ea hm hsize hc h
  · intro x hx h
    obtain ⟨hne, hlen, hexec⟩ := pushForms_exec s n x hx
    rw [hexec]
    obtain ⟨t, ht, hpushed, -⟩ := pushedTaken_of_items s x.2 hm (by omega) hne h
    exact ⟨t, ht, hpushed⟩
  · intro p hp hlevel h
    obtain ⟨hlen, hne⟩ := pushFrame_length s p.1
    rw [pushLists_exec s p hp, pushList_eq hlevel]
    obtain ⟨t, ht, hpushed, -⟩ := pushedTaken_of_items s (pushFrame s p.1) hm (by omega)
      (List.ne_nil_of_length_pos (Nat.pos_of_ne_zero (hne (pushLists_ne_zero p hp)))) h
    exact ⟨t, ht, hpushed⟩

end Sys2Proof.Proofs.Scope
end

section
/-! SUPPORT. The invariant: it holds after reset, and every step keeps it: O1, O2 and O3. -/
namespace Sys2Proof.Proofs.MachineState
open Sys2Proof Sys2Proof.Machine Sys2Proof.Proofs.Scope

/-- Settles O1: the machine after the first reset, against the vector words of its empty code memory. -/
theorem resetStateValues : Obligations.ResetStateValues :=
  ⟨rfl, rfl, rfl, rfl, rfl, rfl, rfl, rfl⟩

/-- Settles O2, clause by clause: the lists are empty and the address registers 0. -/
theorem resetMeetsInvariant : Obligations.ResetMeetsInvariant where
  mem := ⟨.nil, fun _ h => nomatch h⟩
  stores := .nil
  pc := rfl
  lr := rfl
  elr1 := rfl
  elr2 := rfl
  elr3 := rfl
  latches := ⟨rfl, fun h => absurd h Bool.false_ne_true⟩
  req := .nil
  windows := ⟨Nat.zero_le 2, Nat.zero_le 2⟩
  small := fun _ => ⟨rfl, rfl, rfl, rfl, rfl⟩

/-! The clauses an instruction keeps on the way to its end -/

/-- `Inv` without PC and the latches, which every step writes at its end. -/
structure CoreInv (s : State) : Prop where
  mem : s.mem.wf
  stores : s.codeStores.wf
  lr : evenWord s.lr
  elr1 : evenWord s.elr1
  elr2 : evenWord s.elr2
  elr3 : evenWord s.elr3
  req : s.req.Nodup
  eiWindow : s.eiWindow ≤ 2
  mieWindow : s.mieWindow ≤ 2
  small : s.isLarge = false → s.csr = 0 ∧ segsZero s

namespace CoreInv

theorem of_inv {s : State} (h : Inv s) : CoreInv s :=
  ⟨h.mem, h.stores, h.lr, h.elr1, h.elr2, h.elr3, h.req, h.windows.1, h.windows.2, h.small⟩

theorem of_kept {s u : State} (h : CoreInv s) (k : Kept s u) : CoreInv u where
  mem := k.memWf h.mem
  stores := k.storesWf h.stores
  lr := k.lr h.lr
  elr1 := k.elr1 h.elr1
  elr2 := k.elr2 h.elr2
  elr3 := k.elr3 h.elr3
  req := k.req ▸ h.req
  eiWindow := k.ei ▸ h.eiWindow
  mieWindow := k.mie ▸ h.mieWindow
  small hs := by
    have hs' : s.isLarge = false := by rwa [State.isLarge, k.dev] at hs
    obtain ⟨hcsr, hsegs⟩ := h.small hs'
    exact ⟨k.csr.trans hcsr, k.segs hs' hsegs⟩

/-- In the SMALL model a write to CSR is ignored (10_state.md R68). -/
theorem setCsr {s : State} (h : CoreInv s) (v : CodeSeg) : CoreInv (s.setCsr v) :=
  { h with small := fun hs => ⟨(Kept.segWrite_small hs s.csr v).trans (h.small hs).1, (h.small hs).2⟩ }

theorem setDsr {s : State} (h : CoreInv s) (v : Byte) : CoreInv (s.setDsr v) := { h with }

theorem with_req {s : State} (h : CoreInv s) {req : List Request} (hr : req.Nodup) : CoreInv { s with req := req } :=
  { h with req := hr }

end CoreInv

/-! The ends of an instruction -/

/-- An instruction that ends in the usual way leaves PC even, the latches clear and the windows shorter. -/
theorem inv_finish {u : State} (h : CoreInv u) (off : Word) : Inv (u.finish off) where
  mem := h.mem
  stores := h.stores
  pc := evenWord_and off
  lr := h.lr
  elr1 := h.elr1
  elr2 := h.elr2
  elr3 := h.elr3
  latches := ⟨rfl, fun hp => absurd hp Bool.false_ne_true⟩
  req := h.req
  windows := ⟨(Nat.sub_le _ 1).trans h.eiWindow, (Nat.sub_le _ 1).trans h.mieWindow⟩
  small := h.small

/-- The windows may be opened for up to two boundaries, and free values drawn. -/
theorem inv_with_windows {t : State} (h : Inv t) {ei mie : Nat} (hei : ei ≤ 2) (hmie : mie ≤ 2)
    (level : Option Level) (draws : Nat) :
    Inv { t with eiWindow := ei, mieWindow := mie, levelView := level, draws := draws } :=
  { h with windows := ⟨hei, hmie⟩ }

/-- MOV PSW opens a window of two boundaries or leaves the windows as the end of any instruction does (R577). -/
theorem inv_movPsw {u : State} (h : CoreInv u) (v : Byte) : Inv (u.movPsw v) := by
  have hdone : Inv (u.setPsw v).done := inv_finish (h.of_kept (.setPsw u v)) _
  have ⟨hei, hmie⟩ := hdone.windows
  unfold State.movPsw
  split_ifs
  · exact inv_with_windows hdone hei le_rfl _ _
  · exact inv_with_windows hdone hei le_rfl _ _
  · exact inv_with_windows hdone hei le_rfl _ _
  · exact hdone
  · exact inv_with_windows hdone hei hmie _ _
  · exact inv_with_windows hdone hei hmie _ _

theorem inv_enableInterrupts {u : State} (h : CoreInv u) : Inv u.enableInterrupts := by
  have hdone : Inv (u.setPsw (putMIE u.psw true)).done := inv_finish (h.of_kept (.setPsw u (putMIE u.psw true))) _
  unfold State.enableInterrupts
  split_ifs
  · exact hdone
  · exact inv_with_windows hdone le_rfl hdone.windows.2 _ _

theorem inv_disableInterrupts {u : State} (h : CoreInv u) : Inv u.disableInterrupts := by
  have hdone : Inv (u.setPsw (putMIE u.psw false)).done := inv_finish (h.of_kept (.setPsw u (putMIE u.psw false))) _
  exact inv_with_windows hdone hdone.windows.1 (Nat.zero_le 2) _ _

/-- A word that loads DSR sets PFX and the IBLOCK of R78 together (42_load_store.md R260). -/
theorem inv_prefixWord {u t : State} {seg : Byte} (h : CoreInv u) (ht : u.prefixWord seg = .next t) : Inv t := by
  unfold State.prefixWord at ht
  split at ht
  · cases ht
  · cases ht
    have hdone : Inv (u.setDsr seg).done := inv_finish (h.setDsr seg) _
    exact { hdone with latches := ⟨rfl, fun _ => rfl⟩ }

/-- An entry writes the backup registers of its level, and CSR, and sets both block latches (60_exceptions.md R510). -/
theorem inv_enter {u t : State} {k : Level} {vec ret : Word} {c : Bool} {saved : Byte} (h : CoreInv u)
    (ht : u.enter k vec ret c saved = .next t) : Inv t := by
  unfold State.enter at ht
  split at ht
  · obtain ⟨w, -, ht⟩ := andThen_eq_next ht
    cases ht
    have saves := ((Kept.setElr u k ret).trans (.setEcsr _ k (u.segRead u.csr))).trans (.setEpsw _ k saved)
    have kept := saves.trans (.setPsw _ (if c then putMIE (putElevel u.psw k) false else putElevel u.psw k))
    have hdone := inv_finish ((h.of_kept kept).setCsr 0) w
    exact { hdone with latches := ⟨rfl, fun hp => absurd hp Bool.false_ne_true⟩ }
  · cases ht

/-- The free values of a reset are even where the register is, and 0 where the SMALL model has it so
(70_reset_and_hazards.md R560, log 5). -/
theorem inv_resetSequence {u t : State} (h : CoreInv u) (ht : u.resetSequence = .next t) : Inv t := by
  obtain ⟨sp, -, ht⟩ := andThen_eq_next ht
  obtain ⟨pc, -, ht⟩ := andThen_eq_next ht
  cases ht
  have segs (hs : (u.dev.memoryModel == .large) = false) (v : CodeSeg) : u.segRead v = 0 := by
    rw [State.segRead, State.isLarge, hs]
    rfl
  exact
    { h with
      pc := evenWord_and pc
      lr := evenWord_and _
      elr1 := evenWord_and _
      elr2 := evenWord_and _
      elr3 := evenWord_and _
      latches := ⟨rfl, fun hp => absurd hp Bool.false_ne_true⟩
      windows := ⟨Nat.zero_le 2, Nat.zero_le 2⟩
      small := fun hs => by
        rw [State.isLarge] at hs
        exact ⟨rfl, segs hs _, segs hs _, segs hs _, segs hs _⟩ }

/-- Whatever way an instruction ends, it keeps the invariant. -/
theorem inv_of_ended {s t : State} (hi : Inv s) (h : Ended s t) : Inv t := by
  have core {u : State} (k : Kept s u) : CoreInv u := (CoreInv.of_inv hi).of_kept k
  cases h with
  | finish k off => exact inv_finish (core k) off
  | far k seg off => exact inv_finish ((core k).setCsr seg) off
  | movPsw k v => exact inv_movPsw (core k) v
  | ei k => exact inv_enableInterrupts (core k)
  | di k => exact inv_disableInterrupts (core k)
  | prefixWord k seg h => exact inv_prefixWord (core k) h
  | entry k level vec ret c saved h => exact inv_enter (core k) h
  | reset k h => exact inv_resetSequence (core k) h

/-! The other kinds of step -/

/-- An acceptance removes a request from a list without repeats and enters its level (60_exceptions.md R504, R511). -/
theorem inv_acceptRequest {s t : State} {q : Request} (hi : Inv s) (h : s.acceptRequest q = .next t) : Inv t := by
  have hc : CoreInv { s with req := s.req.filter (· ≠ q) } := (CoreInv.of_inv hi).with_req (hi.req.filter _)
  cases q with
  | nmice => exact inv_enter hc h
  | nmi => exact inv_enter hc h
  | mi v => exact inv_enter (hc.of_kept (.drawn _ 1)) h

theorem inv_acceptReset {s t : State} (hi : Inv s) (h : s.acceptReset = .next t) : Inv t := by
  have hc : CoreInv { s with resetIn := false } := { CoreInv.of_inv hi with }
  exact inv_resetSequence hc h

/-- The free choice of a boundary touches nothing the invariant reads. -/
theorem inv_of_boundary {s u : State} (hi : Inv s) (h : u = s ∨ u = s.drawn 1) : Inv u := by
  obtain rfl | rfl := h
  · exact hi
  · exact { hi with }

/-- Settles O3, by the three kinds of step: a reset, an acceptance, an instruction. -/
theorem stepKeepsInvariant : Obligations.StepKeepsInvariant := by
  intro s t hi h
  unfold step at h
  split at h
  next => exact inv_acceptReset hi h
  next q u hb => exact inv_acceptRequest (inv_of_boundary hi (boundary_state (.inl hb))) h
  next u hb =>
    obtain ⟨i, -, h⟩ := andThen_eq_next h
    exact inv_of_ended (inv_of_boundary hi (boundary_state (q := .nmi) (.inr hb))) (exec_ends i u t h)

end Sys2Proof.Proofs.MachineState
end

section
/-! SUPPORT. Which instructions set a block latch or write a segment register: O54 and O59. -/
namespace Sys2Proof.Proofs.MachineState
open Sys2Proof Sys2Proof.Machine Sys2Proof.Proofs.Scope

/-! The steps that block the next boundary -/

/-- A word that loads DSR sets PFX and the IBLOCK of R78, clears that of R506, and leaves CSR alone (42_load_store.md
R260, 60_exceptions.md R506). -/
theorem prefixWord_eq_next {s t : State} {seg : Byte} (h : s.prefixWord seg = .next t) :
    (t.iblock = true ∧ t.entryBlock = false ∧ t.pfx = true) ∧ t.csr = s.csr ∧ t.dsr = seg := by
  unfold State.prefixWord at h
  split at h
  · cases h
  · cases h
    exact ⟨⟨rfl, rfl, rfl⟩, rfl, rfl⟩

/-- An entry that answers sets both block latches and leaves DSR alone (60_exceptions.md R510). -/
theorem enter_eq_next {s t : State} {k : Level} {vec ret : Word} {c : Bool} {saved : Byte}
    (h : s.enter k vec ret c saved = .next t) :
    (t.iblock = true ∧ t.entryBlock = true ∧ t.pfx = false) ∧ t.dsr = s.dsr := by
  unfold State.enter at h
  split at h
  · obtain ⟨w, -, h⟩ := andThen_eq_next h
    cases h
    have saves := ((Kept.setElr s k ret).trans (.setEcsr _ k (s.segRead s.csr))).trans (.setEpsw _ k saved)
    exact ⟨⟨rfl, rfl, rfl⟩, saves.dsr⟩
  · cases h

theorem enter_latches {s t : State} {k : Level} {vec ret : Word} {c : Bool} {saved : Byte}
    (h : s.enter k vec ret c saved = .next t) : t.iblock = true ∧ t.entryBlock = true ∧ t.pfx = false :=
  (enter_eq_next h).1

theorem enter_dsr {s t : State} {k : Level} {vec ret : Word} {c : Bool} {saved : Byte}
    (h : s.enter k vec ret c saved = .next t) : t.dsr = s.dsr := (enter_eq_next h).2

theorem resetSequence_latches {s t : State} (h : s.resetSequence = .next t) :
    t.iblock = true ∧ t.entryBlock = true ∧ t.pfx = false := by
  obtain ⟨sp, -, h⟩ := andThen_eq_next h
  obtain ⟨pc, -, h⟩ := andThen_eq_next h
  cases h
  exact ⟨rfl, rfl, rfl⟩

theorem acceptRequest_latches {s t : State} {q : Request} (h : s.acceptRequest q = .next t) :
    t.iblock = true ∧ t.entryBlock = true ∧ t.pfx = false := by
  cases q with
  | nmice => exact enter_latches h
  | nmi => exact enter_latches h
  | mi v => exact enter_latches h

theorem acceptReset_latches {s t : State} (h : s.acceptReset = .next t) :
    t.iblock = true ∧ t.entryBlock = true ∧ t.pfx = false := resetSequence_latches h

/-- A set latch keeps every request from the boundary, but not the reset input (60_exceptions.md R506, R560). -/
theorem boundary_of_blocked {s : State} (h : s.iblock = true ∨ s.entryBlock = true ∨ s.pfx = true) :
    s.boundary = if s.resetIn then .reset else .run s := by
  have hb : (s.iblock || s.entryBlock || s.pfx) = true := by simpa [or_assoc] using h
  rw [State.boundary, hb]
  rfl

/-! The instructions that end a step in the usual way -/

/-- Whatever next state `x` answers, the block latches and PFX are clear there and DSR is as in `s`; and CSR is, but
where `far` says that it may be written. -/
def Continues (far : Prop) (s : State) (x : Res State) : Prop :=
  ∀ t, x = .next t →
    t.iblock = false ∧ t.entryBlock = false ∧ t.pfx = false ∧ t.dsr = s.dsr ∧ (t.csr ≠ s.csr → far)

namespace Continues

theorem refused {far : Prop} {s : State} (e : Refusal) : Continues far s (.refused e) := by rintro _ ⟨⟩

theorem finish {far : Prop} {s u : State} {off : Word} (k : Kept s u) : Continues far s (.next (u.finish off)) := by
  rintro _ ⟨⟩
  exact ⟨rfl, rfl, rfl, k.dsr, fun h => absurd k.csr h⟩

/-- A far jump writes CSR and continues there. -/
theorem jump {far : Prop} {s u : State} {seg : CodeSeg} {off : Word} (hfar : far) (k : Kept s u) :
    Continues far s (.next ((u.setCsr seg).finish off)) := by
  rintro _ ⟨⟩
  exact ⟨rfl, rfl, rfl, k.dsr, fun _ => hfar⟩

/-- First a part that keeps what `Kept` says, then the rest from the state `st` of its value. -/
theorem bind {far : Prop} {α : Type} {s : State} {x : Res α} {f : α → Res State} {st : α → State}
    (hk : ∀ a, x = .next a → Kept s (st a)) (hf : ∀ a, Continues far (st a) (f a)) :
    Continues far s (andThen x f) := by
  intro t h
  obtain ⟨a, ha, ht⟩ := andThen_eq_next h
  have k := hk a ha
  obtain ⟨hi, he, hp, hdsr, hcsr⟩ := hf a t ht
  exact ⟨hi, he, hp, hdsr.trans k.dsr, k.csr ▸ hcsr⟩

/-- An item of a register list that is named or not. -/
theorem bindItem {far : Prop} {s : State} {b : Bool} {x : Res State} {f : State → Res State}
    (hk : ∀ u, x = .next u → Kept s u) (hf : ∀ u, Continues far u (f u)) :
    Continues far s (andThen (if b then x else .next s) f) := by
  refine bind (st := id) (fun u hu => ?_) hf
  split at hu
  · exact hk u hu
  · cases hu
    exact .refl s

theorem branchIf {far : Prop} (s : State) (c : Bool) (disp : BitVec 8) :
    Continues far s (.next (s.branchIf c disp)) := by
  unfold State.branchIf
  split
  · exact finish (.refl s)
  · exact finish (.refl s)

theorem movPsw {far : Prop} (s : State) (v : Byte) : Continues far s (.next (s.movPsw v)) := by
  rintro _ ⟨⟩
  unfold State.movPsw
  split_ifs
  all_goals exact ⟨rfl, rfl, rfl, rfl, fun h => absurd rfl h⟩

theorem enableInterrupts {far : Prop} (s : State) : Continues far s (.next s.enableInterrupts) := by
  rintro _ ⟨⟩
  unfold State.enableInterrupts
  split_ifs
  all_goals exact ⟨rfl, rfl, rfl, rfl, fun h => absurd rfl h⟩

theorem disableInterrupts {far : Prop} (s : State) : Continues far s (.next s.disableInterrupts) := by
  rintro _ ⟨⟩
  exact ⟨rfl, rfl, rfl, rfl, fun h => absurd rfl h⟩

theorem returnFromInterrupt {far : Prop} (hfar : far) (s : State) : Continues far s s.returnFromInterrupt := by
  unfold State.returnFromInterrupt
  split
  · exact refused _
  · exact bind (fun _ => Kept.needLevel) fun u => jump hfar (.setPsw u _)

theorem pushList {far : Prop} (lepa : BitVec 4) (s : State) : Continues far s (pushList lepa s) :=
  bindItem (fun _ => Kept.pushElrItem) fun _ => bindItem (fun _ => Kept.pushEpswItem) fun _ =>
    bindItem (fun _ => Kept.pushLrItem) fun _ => bindItem (fun _ => Kept.pushEaItem) fun u => finish (.refl u)

theorem popPcItem {far : Prop} (hfar : far) (s : State) : Continues far s s.popPcItem := by
  intro t h
  obtain ⟨u, seg, off, k, rfl⟩ := Kept.popPcItem h
  exact jump hfar k _ rfl

/-- POP register_list writes CSR only where it names PC (44_push_pop.md R349). -/
theorem popList {far : Prop} {lepa : BitVec 4} (hfar : lepa.getLsbD 1 = true → far) (s : State) :
    Continues far s (popList lepa s) := by
  refine bindItem (fun _ => Kept.popEaItem) fun _ => bindItem (fun _ => Kept.popLrItem) fun _ =>
    bindItem (fun _ => Kept.popPswItem) fun u => ?_
  split
  next hpc => exact popPcItem (hfar hpc) u
  next => exact finish (.refl u)

end Continues

/-- The instructions that do not end in the usual way, and leave a latch set: SWI, BRK and the words that load DSR
(60_exceptions.md R506, 42_load_store.md R260). -/
def Blocks (i : Instr) : Prop := (∃ snum, i = .swiSnum snum) ∨ i = .brk ∨ isPrefix i

/-- The instructions that may write CSR: the far branches and returns, the entries, and POP lists that name PC
(10_state.md R60, 48_branch.md section 5). -/
def WritesCsr (i : Instr) : Prop :=
  (∃ g cadr, i = .bCadr g cadr ∨ i = .blCadr g cadr) ∨ i ∈ [Instr.rt, .rti, .brk] ∨ (∃ snum, i = .swiSnum snum) ∨
    ∃ p ∈ popLists, p.1.getLsbD 1 = true ∧ i = p.2

theorem pushLists_continue (s : State) {far : Prop} {i : Instr} (h : i ∈ pushLists.map Prod.snd) :
    Continues far s (exec i s) := by
  obtain ⟨p, hp, rfl⟩ := List.mem_map.1 h
  rw [pushLists_exec s p hp]
  exact .pushList p.1 s

theorem popLists_continue (s : State) {i : Instr} (h : i ∈ popLists.map Prod.snd) :
    Continues (WritesCsr i) s (exec i s) := by
  obtain ⟨p, hp, rfl⟩ := List.mem_map.1 h
  rw [popLists_exec s p hp]
  exact .popList (fun hpc => .inr (.inr (.inr ⟨p, hp, hpc, rfl⟩))) s

/-- Every instruction but the words that load DSR, SWI and BRK ends with the latches clear, DSR as it was, and CSR as
it was unless it is one of those that write it. `exec_ends` lists the ends an instruction can have; this says which
instructions end in the usual way. -/
theorem exec_continues (i : Instr) (s : State) (h : ¬ Blocks i) : Continues (WritesCsr i) s (exec i s) := by
  cases i with
  | swiSnum snum => exact absurd (.inl ⟨snum, rfl⟩) h
  | brk => exact absurd (.inr (.inl rfl)) h
  | dsrPrefixImm8 imm => exact absurd (.inr (.inr (.inl ⟨imm, rfl⟩))) h
  | dsrPrefixRd d => exact absurd (.inr (.inr (.inr (.inl ⟨d, rfl⟩)))) h
  | dsrPrefixDsr => exact absurd (.inr (.inr (.inr (.inr rfl)))) h
  -- the writers of CSR, and LR with them
  | bCadr g cadr => exact .bind (fun _ => Kept.needSegment) fun u => .jump (.inl ⟨g, cadr, .inl rfl⟩) (.refl u)
  | blCadr g cadr =>
    exact .bind (fun _ => Kept.needSegment) fun u =>
      .jump (.inl ⟨g, cadr, .inr rfl⟩) ((Kept.setLr u _).trans (.setLcsr _ _))
  | rt => exact .jump (.inr (.inl (by decide))) (.refl s)
  | rti => exact .returnFromInterrupt (.inr (.inl (by decide))) s
  | blErn => exact .finish ((Kept.setLr s _).trans (.setLcsr _ _))
  -- the register lists
  | pushEa | pushElr | pushEaElr | pushEpsw | pushEaEpsw | pushElrEpsw | pushEaElrEpsw | pushLr | pushEaLr | pushElrLr
  | pushEaElrLr | pushEpswLr | pushEaEpswLr | pushElrEpswLr | pushEaElrEpswLr => exact pushLists_continue s (by decide)
  | popEa | popPc | popEaPc | popPsw | popEaPsw | popPcPsw | popEaPcPsw | popLr | popEaLr | popPcLr | popEaPcLr
  | popPswLr | popEaPswLr | popPcPswLr | popEaPcPswLr => exact popLists_continue s (by decide)
  | pushRn => exact .bind (fun _ => Kept.pushFree) fun _ => .bind (fun _ => Kept.push8) fun u => .finish (.refl u)
  | pushErn | pushXrn | pushQrn => exact .bind (fun _ => Kept.pushAll) fun u => .finish (.refl u)
  | popRn => exact .bind (fun _ => Kept.pop8) fun p => .finish ((Kept.skip8 p.2).trans (.setReg _ _ _))
  | popErn | popXrn | popQrn => exact .bind (fun _ => Kept.popAll) fun p => .finish (.setRegs p.2 _ _)
  -- the transfers with memory
  | lRnEa | lRnErm | lRnDisp16Erm | lRnDisp6Bp | lRnDisp6Fp | lRnDadr | lErnEa | lErnErm | lErnDisp16Erm | lErnDisp6Bp
  | lErnDisp6Fp | lErnDadr | lXrnEa | lQrnEa | lRnEaInc | lErnEaInc | lXrnEaInc | lQrnEaInc =>
    exact .bind (fun _ => Kept.loadRegs) fun _ => .finish (.of_same rfl)
  | stRnEa | stRnErm | stRnDisp16Erm | stRnDisp6Bp | stRnDisp6Fp | stRnDadr | stErnEa | stErnErm | stErnDisp16Erm
  | stErnDisp6Bp | stErnDisp6Fp | stErnDadr | stXrnEa | stQrnEa | stRnEaInc | stErnEaInc | stXrnEaInc | stQrnEaInc =>
    exact .bind (fun _ => Kept.storeRegs) fun _ => .finish (.of_same rfl)
  | sbDbitadr | rbDbitadr | incEa | decEa =>
    exact .bind (fun _ => Kept.readByte) fun _ => .bind (fun _ => Kept.writeMem) fun u => .finish (.setPsw u _)
  | tbDbitadr => exact .bind (fun _ => Kept.readByte) fun p => .finish ((Kept.latchAr p.2 _).trans (.setPsw _ _))
  -- the coprocessor
  | movCrnEa | movCernEa | movCxrnEa | movCqrnEa | movCrnEaInc | movCernEaInc | movCxrnEaInc | movCqrnEaInc =>
    exact .bind (fun _ => Kept.loadCregs) fun _ => .finish (.of_same rfl)
  | movEaCrm | movEaCerm | movEaCxrm | movEaCqrm | movEaIncCrm | movEaIncCerm | movEaIncCxrm | movEaIncCqrm =>
    exact .bind (fun _ => Kept.storeCregs) fun _ => .finish (.of_same rfl)
  | movCrnRm => exact .bind (fun _ => Kept.needCoprocessor) fun u => .finish (.setCreg u _ _)
  | movRnCrm =>
    exact .bind (fun _ => Kept.needCoprocessor) fun u => .finish ((Kept.cregsDrawn u _).trans (.setRegs _ _ _))
  -- the control registers
  | movEcsrRm => exact .bind (fun _ => Kept.needLevel) fun u => .finish (.setEcsr u _ _)
  | movElrErm => exact .bind (fun _ => Kept.needLevel) fun u => .finish (.setElr u _ _)
  | movEpswRm => exact .bind (fun _ => Kept.needLevel) fun u => .finish (.setEpsw u _ _)
  | movErnElr | movRnEcsr => exact .bind (fun _ => Kept.needLevel) fun _ => .finish (.of_same rfl)
  | movRnEpsw =>
    refine .bind (fun _ => Kept.needLevel) fun u => ?_
    split
    · exact .finish (.refl u)
    · exact .finish (.setReg u _ _)
  | movPswRm | movPswUnsigned8 => exact .movPsw s _
  | ei => exact .enableInterrupts s
  | di => exact .disableInterrupts s
  -- the relative branches, the shifts and DIV, which split inside
  | bgeRadr | bltRadr | bgtRadr | bleRadr | bgesRadr | bltsRadr | bgtsRadr | blesRadr | bneRadr | beqRadr | bnvRadr
  | bovRadr | bpsRadr | bnsRadr | balRadr => exact .branchIf s _ _
  | sllRnRm | sllRnWidth | sllcRnRm | sllcRnWidth | sraRnRm | sraRnWidth | srlRnRm | srlRnWidth | srlcRnRm
  | srlcRnWidth => exact .finish (kept_shiftWrite _ _ _ _ _)
  | divErnRm n m =>
    show Continues _ s (if m = n ∨ m = n + 1 then _ else _)
    split
    · exact .refused _
    · exact .finish (kept_divide s n m)
  -- the rest writes general registers, PSW, SP or EA only
  | _ => exact .finish (.of_same rfl)

/-! The instructions that do not -/

/-- The words that load DSR differ in the segment they load (42_load_store.md R260 to R262). -/
theorem exec_of_isPrefix {i : Instr} (h : isPrefix i) (s : State) :
    ∃ seg, exec i s = s.prefixWord seg ∧ (seg = s.dsr ∨ (∃ imm, i = .dsrPrefixImm8 imm) ∨ ∃ d, i = .dsrPrefixRd d) := by
  obtain ⟨imm, rfl⟩ | ⟨d, rfl⟩ | rfl := h
  · exact ⟨imm, rfl, .inr (.inl ⟨imm, rfl⟩)⟩
  · exact ⟨s.reg d, rfl, .inr (.inr ⟨d, rfl⟩)⟩
  · exact ⟨s.dsr, rfl, .inl rfl⟩

theorem exec_swiSnum (snum : BitVec 6) (s : State) :
    exec (.swiSnum snum) s = s.enter 1#2 (0x0080#16 + 2#16 * snum.zeroExtend 16) s.nextPc true s.psw := rfl

theorem not_isPrefix_swiSnum (snum : BitVec 6) : ¬ isPrefix (.swiSnum snum) := by simp [isPrefix]

theorem not_isPrefix_brk : ¬ isPrefix .brk := by simp [isPrefix]

/-- BRK resets at levels 2 and 3 and enters level 2 below (48_branch.md R463). -/
theorem exec_brk_eq_next {s t : State} (h : exec .brk s = .next t) :
    2 ≤ s.useLevel.toNat ∧ s.resetSequence = .next t ∨ s.enter 2#2 0x0004#16 s.nextPc false s.psw = .next t := by
  change (if 2 ≤ s.useLevel.toNat then s.resetSequence else s.enter 2#2 0x0004#16 s.nextPc false s.psw) = _ at h
  split at h
  next hl => exact .inl ⟨hl, h⟩
  next => exact .inr h

theorem exec_brk_latches {s t : State} (h : exec .brk s = .next t) :
    t.iblock = true ∧ t.entryBlock = true ∧ t.pfx = false := by
  obtain ⟨-, h⟩ | h := exec_brk_eq_next h
  · exact resetSequence_latches h
  · exact enter_latches h

/-- The latches after an instruction, by its kind. -/
theorem exec_latches {i : Instr} {s t : State} (h : exec i s = .next t) :
    (t.entryBlock = true ↔ (∃ snum, i = .swiSnum snum) ∨ i = .brk) ∧
      (t.iblock = true ↔ (∃ snum, i = .swiSnum snum) ∨ i = .brk ∨ isPrefix i) ∧ (t.pfx = true ↔ isPrefix i) := by
  by_cases hb : Blocks i
  · obtain ⟨snum, rfl⟩ | rfl | hp := hb
    · rw [exec_swiSnum] at h
      obtain ⟨hi, he, hx⟩ := enter_latches h
      simp [hi, he, hx, not_isPrefix_swiSnum]
    · obtain ⟨hi, he, hx⟩ := exec_brk_latches h
      simp [hi, he, hx, not_isPrefix_brk]
    · obtain ⟨seg, hseg, -⟩ := exec_of_isPrefix hp s
      obtain ⟨⟨hi, he, hx⟩, -⟩ := prefixWord_eq_next (hseg.symm.trans h)
      have hswi : ¬ ∃ snum, i = .swiSnum snum := fun ⟨snum, e⟩ => not_isPrefix_swiSnum snum (e ▸ hp)
      have hbrk : i ≠ .brk := fun e => not_isPrefix_brk (e ▸ hp)
      simp [hi, he, hx, hp, hswi, hbrk]
  · obtain ⟨hi, he, hx, -⟩ := exec_continues i s hb t h
    obtain ⟨hswi, hbrk, hp⟩ : (¬ ∃ snum, i = .swiSnum snum) ∧ i ≠ .brk ∧ ¬ isPrefix i := by
      rwa [Blocks, not_or, not_or] at hb
    simp [hi, he, hx, hp, hswi, hbrk]

/-- Settles O54: the latches after each kind of step, and the boundary they decide. -/
theorem blockingLatches : Obligations.BlockingLatches := fun _ _ =>
  ⟨fun _ => exec_latches, fun _ _ _ _ _ => enter_latches, fun _ => acceptRequest_latches, acceptReset_latches,
    boundary_of_blocked⟩

/-- Settles O59: of the instructions that do not end in the usual way, SWI and BRK may write CSR by an entry, and BRK
by a reset DSR too; the words that load DSR write nothing else, the third of them its own value. -/
theorem segmentRegisterWriters : Obligations.SegmentRegisterWriters := by
  intro i s t h
  by_cases hb : Blocks i
  · obtain ⟨snum, rfl⟩ | rfl | hp := hb
    · rw [exec_swiSnum] at h
      have hdsr : t.dsr = s.dsr := enter_dsr h
      exact ⟨fun _ => .inr (.inr (.inl ⟨snum, rfl⟩)), fun hne => absurd hdsr hne⟩
    · refine ⟨fun _ => .inr (.inl (by decide)), fun hne => ?_⟩
      obtain ⟨hl, -⟩ | he := exec_brk_eq_next h
      · exact .inr (.inr ⟨rfl, hl⟩)
      · exact absurd (enter_dsr he) hne
    · obtain ⟨seg, hseg, hform⟩ := exec_of_isPrefix hp s
      obtain ⟨-, hcsr, hdsr⟩ := prefixWord_eq_next (hseg.symm.trans h)
      refine ⟨fun hne => absurd hcsr hne, fun hne => ?_⟩
      obtain hown | himm | hreg := hform
      · exact absurd (hdsr.trans hown) hne
      · exact .inl himm
      · exact .inr (.inl hreg)
  · obtain ⟨-, -, -, hdsr, hcsr⟩ := exec_continues i s hb t h
    exact ⟨hcsr, fun hne => absurd hdsr hne⟩

end Sys2Proof.Proofs.MachineState
end

section
/-! SUPPORT. The stops for want of level-3 registers and of a coprocessor: O26. -/
namespace Sys2Proof.Proofs.MachineState
open Sys2Proof Sys2Proof.Machine Sys2Proof.Proofs.Scope

/-! Level-3 registers -/

theorem levelPresent_three {s : State} (h : s.dev.hasLevel3 = false) : s.levelPresent 3#2 = false := by
  rw [State.levelPresent, h]
  rfl

/-- What needs the registers of an absent level stops there (10_state.md R67). -/
theorem needLevel_stops {α : Type} {s : State} {k : Level} (h : s.levelPresent k = false) (f : State → Res α) :
    andThen (s.needLevel k) f = .refused .level3Absent := by
  rw [State.needLevel, h]
  rfl

theorem pushElrItem_stops {s : State} (h : s.levelPresent s.useLevel = false) :
    s.pushElrItem = .refused .level3Absent := needLevel_stops h _

theorem pushEpswItem_stops {s : State} (h : s.levelPresent s.useLevel = false) :
    s.pushEpswItem = .refused .level3Absent := needLevel_stops h _

/-- A list that names ELR stops there; one that names EPSW and not ELR has pushed nothing before it (44_push_pop.md
R344). -/
theorem pushList_stops {s : State} {lepa : BitVec 4} (h : s.levelPresent s.useLevel = false)
    (hl : lepa.getLsbD 1 = true ∨ lepa.getLsbD 2 = true) : pushList lepa s = .refused .level3Absent := by
  unfold pushList
  by_cases helr : lepa.getLsbD 1 = true
  · rw [if_pos helr, pushElrItem_stops h, andThen_refused]
  · have hepsw : lepa.getLsbD 2 = true := hl.resolve_left helr
    rw [if_neg helr, andThen_next, if_pos hepsw, pushEpswItem_stops h, andThen_refused]

/-- At level 3 RTI has an EPSW to return by, so that its stop is the absent register (48_branch.md R461). -/
theorem returnFromInterrupt_stops {s : State} (hl : s.useLevel = 3#2) (h : s.levelPresent s.useLevel = false) :
    s.returnFromInterrupt = .refused .level3Absent := by
  have hp : s.epsw s.useLevel = some s.epsw3 := by
    rw [hl]
    rfl
  rw [State.returnFromInterrupt, hp]
  exact needLevel_stops h _

theorem enter_stops {s : State} {k : Level} (h : s.levelPresent k = false) (vec ret : Word) (c : Bool) (saved : Byte) :
    s.enter k vec ret c saved = .refused .level3Absent := by
  rw [State.enter, h]
  rfl

/-! The coprocessor -/

/-- What needs a coprocessor stops where there is none (45_coprocessor.md R388). -/
theorem needCoprocessor_stops {α : Type} {s : State} (h : s.dev.coprocessor = .absent) (f : State → Res α) :
    andThen s.needCoprocessor f = .refused .noCoprocessor := by
  rw [State.needCoprocessor, if_pos h, andThen_refused]

theorem loadCregs_stops {s : State} (h : s.dev.coprocessor = .absent) (n : Reg) (k : Nat) (f : State → Res State) :
    andThen (s.loadCregs n k) f = .refused .noCoprocessor := by
  rw [State.loadCregs, needCoprocessor_stops h, andThen_refused]

theorem storeCregs_stops {s : State} (h : s.dev.coprocessor = .absent) (m : Reg) (k : Nat) (f : State → Res State) :
    andThen (s.storeCregs m k) f = .refused .noCoprocessor := by
  rw [State.storeCregs, needCoprocessor_stops h, andThen_refused]

/-- Settles O26: every form begins with the test of the unit it needs. -/
theorem absentUnitStops : Obligations.AbsentUnitStops := by
  refine ⟨fun n m s h3 => ⟨fun hl => ?_, fun vec ret c saved => enter_stops (levelPresent_three h3) vec ret c saved⟩,
    fun n m s hc => ?_⟩
  · have h : s.levelPresent s.useLevel = false := hl ▸ levelPresent_three h3
    refine ⟨needLevel_stops h _, needLevel_stops h _, needLevel_stops h _, needLevel_stops h _, needLevel_stops h _,
      needLevel_stops h _, fun p hp hnames => ?_, returnFromInterrupt_stops hl h⟩
    rw [pushLists_exec s p hp]
    exact pushList_stops h hnames
  · have load (k : Nat) := loadCregs_stops hc n k
    have store (k : Nat) := storeCregs_stops hc m k
    simp only [List.forall_mem_cons, List.not_mem_nil, false_implies, implies_true, and_true]
    exact ⟨needCoprocessor_stops hc _, needCoprocessor_stops hc _, load 1 _, load 1 _, load 2 _, load 2 _, load 4 _,
      load 4 _, load 8 _, load 8 _, store 1 _, store 1 _, store 2 _, store 2 _, store 4 _, store 4 _, store 8 _,
      store 8 _⟩

end Sys2Proof.Proofs.MachineState
end

section
/-! SUPPORT. The words that load DSR, and the address spaces: O16 and O23. -/
namespace Sys2Proof.Proofs.DataMemory
open Sys2Proof Sys2Proof.Machine

/-! The words that load DSR -/

theorem prefixWord_of_clear {s : State} (h : s.pfx = false) (seg : Byte) :
    s.prefixWord seg = .next { (s.setDsr seg).done with pfx := true, iblock := true } := by
  rw [State.prefixWord, h]
  rfl

/-- A word that loads DSR stops right after another one (20_memory.md R124). -/
theorem prefixWord_of_set {s : State} (h : s.pfx = true) (seg : Byte) :
    s.prefixWord seg = .refused .prefixAfterPrefix := by
  rw [State.prefixWord, h]
  rfl

/-- The state after a word that loads DSR, as Safety says it. -/
theorem prefixed_done (s : State) (seg : Byte) :
    prefixed s { (s.setDsr seg).done with pfx := true, iblock := true } seg :=
  ⟨rfl, rfl, onlyRegs_finish rfl rfl (fun _ _ => rfl) rfl rfl, rfl⟩

theorem prefixed_of_clear {s : State} (h : s.pfx = false) (seg : Byte) :
    ∃ t, s.prefixWord seg = .next t ∧ prefixed s t seg :=
  ⟨_, prefixWord_of_clear h seg, prefixed_done s seg⟩

theorem dseg_of_clear {s : State} (h : s.pfx = false) : s.dseg = 0 := by
  rw [State.dseg, h]
  rfl

/-! L Rn,[EA] -/

/-- A byte access finds memory where the one byte can be read: it has no alignment (20_memory.md R113). -/
theorem canLoad_one (s : State) (off : Word) :
    canLoad s off 1 ↔ canRead s.dev (dataKey s.dev s.dseg off) = true := by
  simp [canLoad, readable, keysOf_succ, alignOff]

/-- L Rn,[EA] where MEMMAP has readable memory at DSEG:EA (42_load_store.md R264). -/
theorem lRnEa_of_canLoad {s : State} (n : Reg) (h : canLoad s s.ea 1) :
    ∃ t, exec (.lRnEa n) s = .next t ∧ t.reg n = s.mem.read (dataKey s.dev s.dseg s.ea) := by
  refine ⟨_, andThen_of (s.loadRegs_of_canLoad s.ea n 1 h) _, ?_⟩
  simp [alignOff, bytesAt_succ, State.setRegs]

/-- The access after a word that loads DSR is in that segment (20_memory.md R121). -/
theorem lRnEa_after_prefixWord {s : State} (hp : s.pfx = false) (seg : Byte) (n : Reg)
    (h : canRead s.dev (dataKey s.dev seg s.ea) = true) :
    ∃ t u, s.prefixWord seg = .next t ∧ exec (.lRnEa n) t = .next u ∧
      u.reg n = s.mem.read (dataKey s.dev seg s.ea) := by
  obtain ⟨u, hu, hreg⟩ :=
    lRnEa_of_canLoad (s := { (s.setDsr seg).done with pfx := true, iblock := true }) n ((canLoad_one _ _).2 h)
  exact ⟨_, u, prefixWord_of_clear hp seg, hu, hreg⟩

/-- Settles O16: the three words differ in the segment they load, and the access after one is through DSR. -/
theorem prefixWords : Obligations.PrefixWords := by
  intro imm d s
  refine ⟨rfl, rfl, rfl, fun h => ?_, fun h => ?_, rfl, fun h n => ⟨?_, ?_, ?_⟩⟩
  · exact ⟨prefixed_of_clear h imm, prefixed_of_clear h (s.reg d), prefixed_of_clear h s.dsr⟩
  · exact ⟨prefixWord_of_set h imm, prefixWord_of_set h (s.reg d), prefixWord_of_set h s.dsr⟩
  · exact lRnEa_after_prefixWord h imm n
  · exact lRnEa_after_prefixWord h (s.reg d) n
  · have load := lRnEa_of_canLoad (s := s) n
    rwa [canLoad_one, dseg_of_clear h] at load

/-! The keys of code and data addresses -/

theorem inRomWindow_iff (d : Device) (seg : Byte) (o : Word) :
    inRomWindow d seg o = true ↔
      seg = 0 ∧ ∃ lo hi, d.romWindow = some (lo, hi) ∧ lo.toNat ≤ o.toNat ∧ o.toNat ≤ hi.toNat := by
  unfold inRomWindow
  split
  next h => simp [h]
  next lo hi h =>
    simp only [h, Bool.and_eq_true, beq_iff_eq, decide_eq_true_eq, Option.some.injEq, Prod.mk.injEq]
    constructor
    · rintro ⟨⟨hs, hlo⟩, hhi⟩
      exact ⟨hs, lo, hi, ⟨rfl, rfl⟩, hlo, hhi⟩
    · rintro ⟨hs, _, _, ⟨rfl, rfl⟩, hlo, hhi⟩
      exact ⟨⟨hs, hlo⟩, hhi⟩

/-- The window lies in data segment 0 only (20_memory.md R110). -/
theorem inRomWindow_of_ne_zero (d : Device) {seg : Byte} (o : Word) (h : seg ≠ 0) : inRomWindow d seg o = false := by
  rw [Bool.eq_false_iff, ne_eq, inRomWindow_iff]
  exact fun hw => h hw.1

theorem dataKey_inside {d : Device} {seg : Byte} {o : Word} (h : inRomWindow d seg o = true) :
    dataKey d seg o = codeKey 0 o := by
  rw [dataKey, h]
  rfl

theorem dataKey_outside {d : Device} {seg : Byte} {o : Word} (h : inRomWindow d seg o = false) :
    dataKey d seg o = seg.toNat * 0x10000 + o.toNat := by
  rw [dataKey, h]
  rfl

theorem codeKey_zero (o : Word) : codeKey 0 o = 0x1000000 + o.toNat := rfl

theorem codeKey_of_ne_zero {c : CodeSeg} (o : Word) (h : c ≠ 0) : codeKey c o = c.toNat * 0x10000 + o.toNat :=
  if_neg h

/-- In segments 1 to 15 the code byte and the data byte of one address are the same byte (20_memory.md R102). -/
theorem dataKey_shared (d : Device) {c : CodeSeg} (o : Word) (h : c ≠ 0) :
    dataKey d (c.zeroExtend 8) o = codeKey c o := by
  have hseg : c.zeroExtend 8 ≠ 0#8 := by bv_omega
  have hval : (c.zeroExtend 8).toNat = c.toNat := BitVec.toNat_setWidth_of_le (by omega)
  rw [dataKey_outside (inRomWindow_of_ne_zero d o hseg), codeKey_of_ne_zero o h, hval]

/-- Outside the window no data address reaches code segment 0 (20_memory.md R101): its keys lie above the 24-bit data
addresses. -/
theorem dataKey_ne_codeKey_zero {d : Device} {seg : Byte} {o : Word} (o' : Word) (h : inRomWindow d seg o = false) :
    dataKey d seg o ≠ codeKey 0 o' := by
  rw [dataKey_outside h, codeKey_zero]
  have := seg.isLt
  have := o.isLt
  omega

/-- Data segments 16 to 255 hold no code (20_memory.md R102). -/
theorem dataKey_ne_codeKey {d : Device} {seg : Byte} (c : CodeSeg) (o o' : Word) (h : 16 ≤ seg.toNat) :
    dataKey d seg o ≠ codeKey c o' := by
  have hseg : seg ≠ 0 := by bv_omega
  have hw := inRomWindow_of_ne_zero d o hseg
  by_cases hc : c = 0
  · exact hc ▸ dataKey_ne_codeKey_zero o' hw
  · rw [dataKey_outside hw, codeKey_of_ne_zero o' hc]
    have := c.isLt
    have := o.isLt
    have := o'.isLt
    omega

/-- Settles O23: the keys of the address spaces, and the load through the window. -/
theorem addressSpaces : Obligations.AddressSpaces := by
  intro d seg c o o' n s
  refine ⟨inRomWindow_iff d seg o, dataKey_inside, dataKey_shared d o, dataKey_ne_codeKey_zero o',
    dataKey_ne_codeKey c o o', fun hw hload => ?_⟩
  have load := lRnEa_of_canLoad n hload
  rwa [dataKey_inside hw] at load

end Sys2Proof.Proofs.DataMemory
end

section
/-! SUPPORT. Where fetches, vector reads and data accesses stop: O6. -/
namespace Sys2Proof.Proofs.DataMemory
open Sys2Proof Sys2Proof.Machine Sys2Proof.Proofs.Scope Sys2Proof.Proofs.MachineState

/-! Fetches of instructions -/

/-- Code bytes of which none stops can be fetched (20_memory.md R108, R148). -/
theorem fetchable_of_no_stops {s : State} {c : CodeSeg} {off : Word} {k : Nat} (h : fetchStops s c off k = none) :
    fetchable s c off k := fun x hx => present_of_no_stop (List.findSome?_eq_none_iff.1 h x hx)

theorem codeRead16_of_even {s : State} {c : CodeSeg} {off : Word} (he : off &&& 0xFFFE#16 = off)
    (h : fetchable s c off 2) : s.codeRead16 c off = .next (codeWordAt s c off) := by
  have hread := State.codeRead16_of_fetchable (s := s) (c := c) (off := off) (by rwa [he])
  rwa [he] at hread

/-- A code word at an even offset whose fetch stops, the whole read with it (20_memory.md R108). -/
theorem codeRead16_stops {s : State} {c : CodeSeg} {off : Word} {e : Res State} (he : off &&& 0xFFFE#16 = off)
    (h : fetchStops s c off 2 = some e) (f : Word → Res State) : andThen (s.codeRead16 c off) f = e :=
  State.codeRead16_of_stop (by rwa [he])

theorem runInstr_of_firstWord_stop {u : State} {e : Res State} (hpc : u.pc &&& 0xFFFE#16 = u.pc)
    (h : fetchStops u u.fetchSeg u.pc 2 = some e) : runInstr u = e := by
  rw [runInstr, State.fetch, andThen_assoc]
  exact codeRead16_stops hpc h _

/-- A first word that matches no row of the opcode table (30_encoding.md R185). -/
theorem runInstr_of_unlisted {u : State} (hpc : u.pc &&& 0xFFFE#16 = u.pc) (hf : fetchable u u.fetchSeg u.pc 2)
    (hd : decodeWords (codeWordAt u u.fetchSeg u.pc) 0 = none) : runInstr u = .refused .unlistedEncoding := by
  rw [runInstr, State.fetch, codeRead16_of_even hpc hf, andThen_next, hd, listed, andThen_refused, andThen_refused]

theorem runInstr_of_secondWord_stop {u : State} {i : Instr} {e : Res State} (hpc : u.pc &&& 0xFFFE#16 = u.pc)
    (hf : fetchable u u.fetchSeg u.pc 2) (hd : decodeWords (codeWordAt u u.fetchSeg u.pc) 0 = some i)
    (h2 : i.isTwoWord = true) (h : fetchStops u u.fetchSeg (u.pc + 2) 2 = some e) : runInstr u = e := by
  rw [runInstr, State.fetch, codeRead16_of_even hpc hf, andThen_next, hd, listed, andThen_next, if_pos h2,
    andThen_assoc]
  exact codeRead16_stops (even_add_two hpc) h _

/-! Vectors -/

theorem enter_of_fetchStop {s : State} {k : Level} {vec ret : Word} {c : Bool} {saved : Byte} {e : Res State}
    (hp : s.levelPresent k = true) (he : vec &&& 0xFFFE#16 = vec) (h : fetchStops s 0 vec 2 = some e) :
    s.enter k vec ret c saved = e := by
  rw [State.enter, if_pos hp]
  exact codeRead16_stops he h _

/-- The acceptance of a request whose vector cannot be fetched (60_exceptions.md R511). -/
theorem acceptRequest_of_fetchStop {u : State} {q : Request} {e : Res State}
    (hp : u.levelPresent (BitVec.ofNat 2 (levelOf q)) = true) (h : fetchStops u 0 (vectorOf q) 2 = some e) :
    u.acceptRequest q = e := by
  cases q with
  | nmice => exact enter_of_fetchStop hp rfl h
  | nmi => exact enter_of_fetchStop hp rfl h
  | mi v => exact enter_of_fetchStop hp (miVector_even v) h

/-- The vector of a software interrupt is even (48_branch.md R462). -/
theorem swiVector_even (snum : BitVec 6) :
    (0x0080#16 + 2#16 * snum.zeroExtend 16) &&& 0xFFFE#16 = 0x0080#16 + 2#16 * snum.zeroExtend 16 := by
  rw [even_iff]
  simp

theorem fetchStops_four (s : State) (c : CodeSeg) (off : Word) :
    fetchStops s c off 4 = (fetchStops s c off 2).or (fetchStops s c (off + 2) 2) := by
  have keys : codeKeysOf c off 4 = codeKeysOf c off 2 ++ codeKeysOf c (off + 2) 2 := by
    simp [codeKeysOf, List.range_succ, BitVec.add_assoc]
  rw [fetchStops, keys, List.findSome?_append]
  rfl

/-- The first of the four bytes of the reset vectors that cannot be fetched decides (70_reset_and_hazards.md R560). -/
theorem resetSequence_of_fetchStop {s : State} {e : Res State} (h : fetchStops s 0 0x0000#16 4 = some e) :
    s.resetSequence = e := by
  rw [fetchStops_four] at h
  cases hsp : fetchStops s 0 0x0000#16 2 with
  | some e' =>
    rw [hsp, Option.some_or] at h
    exact codeRead16_stops rfl (hsp.trans h) _
  | none =>
    rw [hsp, Option.none_or] at h
    rw [State.resetSequence, codeRead16_of_even rfl (fetchable_of_no_stops hsp), andThen_next]
    exact codeRead16_stops rfl h _

/-! Reads -/

theorem loadCregs_of_absent {s : State} {n : Reg} {k : Nat} (hc : s.dev.coprocessor ≠ .absent)
    (h : someAbsent s s.dseg (alignOff k s.ea) k) : s.loadCregs n k = .fault .readAbsent := by
  rw [State.loadCregs, State.needCoprocessor, if_neg hc, andThen_next, State.readMem, State.offEa,
    State.readBytes_of_absent _ _ _ _ h, andThen_fault]

theorem readByte_of_someAbsent {s : State} {seg : Byte} {off : Word} (h : someAbsent s seg off 1) :
    s.readByte seg off = .fault .readAbsent :=
  State.readByte_of_absent s seg off (by simpa [someAbsent, keysOf_succ] using h)

theorem tb_of_absent {s : State} (bit : BitVec 3) {dadr : Word} (h : someAbsent s s.dseg dadr 1) :
    exec (.tbDbitadr bit dadr) s = .fault .readAbsent := by
  show andThen (s.readByte s.dseg dadr) _ = _
  rw [readByte_of_someAbsent h, andThen_fault]

theorem popAll_of_absent {s : State} {k : Nat} (h : someAbsent s 0 s.sp k) : s.popAll k = .fault .readAbsent := by
  have hkeys : ∃ x ∈ stackKeys s (List.range' 0 k), kindAt s.dev x = none := by
    rwa [← List.range_eq_range']
  exact popsTo_stop (popsTo_popAll k rfl (by simp)) hkeys

/-- POP Rn reads the lower byte of its frame only (44_push_pop.md R345, R353). -/
theorem pop8_of_absent {s : State} (h : someAbsent s 0 s.sp 1) : s.pop8 = .fault .readAbsent := by
  rw [State.pop8, readByte_of_someAbsent h, andThen_fault]

theorem popForms_of_absent (s : State) (n : Reg) :
    ∀ x ∈ popForms n, someAbsent s 0 s.sp x.2.1 → exec x.1 s = .fault .readAbsent := by
  have group (k : Nat) (h : someAbsent s 0 s.sp k) :
      (andThen (s.popAll k) fun p => .next (p.2.setRegs n p.1).done) = .fault .readAbsent := by
    rw [popAll_of_absent h, andThen_fault]
  have rn (h : someAbsent s 0 s.sp 1) :
      (andThen s.pop8 fun p => .next ((p.2.skip8).setReg n p.1).done) = .fault .readAbsent := by
    rw [pop8_of_absent h, andThen_fault]
  simp only [popForms, List.forall_mem_cons, List.not_mem_nil, false_implies, implies_true, and_true]
  exact ⟨rn, group 2, group 4, group 8⟩

/-- An item of POP that is named or not: where it is not, the pops stay where they are. -/
theorem popsTo_opt {s u : State} {is : List Nat} {i n : Nat} {x : Res State} (b : Bool) (hd : u.dev = s.dev)
    (hsp : u.sp = s.sp + BitVec.ofNat 16 i) (h : popsTo s is (i + n) x id) :
    popsTo s (if b then is else []) (i + if b then n else 0) (if b then x else .next u) id := by
  cases b with
  | false => exact popsTo_next hd hsp
  | true => exact h

/-- POP register_list reads the bytes of `popReads`, in their order (44_push_pop.md R349). -/
theorem popsTo_popList (s : State) (lepa : BitVec 4) :
    popsTo s (popReads s lepa) (popOffsets s lepa).2.2.2 (popList lepa s) id := by
  have hsp0 : s.sp = s.sp + BitVec.ofNat 16 0 := by simp
  have hea := popsTo_opt (lepa.getLsbD 0) rfl hsp0 (popsTo_popEaItem rfl hsp0)
  simp only [Nat.zero_add] at hea
  simp only [popReads, List.append_assoc]
  exact popsTo_andThen hea fun u hd hsp =>
    popsTo_andThen (popsTo_opt _ hd hsp (popsTo_popLrItem hd hsp)) fun u hd hsp =>
      popsTo_andThen (popsTo_opt _ hd hsp (popsTo_popPswItem hd hsp)) fun u hd hsp =>
        popsTo_opt (u := u.done) _ hd hsp (popsTo_popPcItem hd hsp)

/-! Writes -/

/-- A write that stops is the stop of the whole instruction. -/
theorem andThen_of_writeStop {s : State} {seg : Byte} {off : Word} {e : Res State} (h : writeStop s seg off = some e)
    (f : State → Res State) : andThen e f = e := by
  obtain rfl | rfl := writeStop_eq h
  · rfl
  · rfl

theorem andThen_of_writeStops {s : State} {seg : Byte} {off : Word} {k : Nat} {e : Res State}
    (h : writeStops s seg off k = some e) (f : State → Res State) : andThen e f = e := by
  obtain ⟨_, -, hi⟩ := List.exists_of_findSome?_eq_some h
  exact andThen_of_writeStop hi f

theorem andThen_of_pushStops {s : State} {k : Nat} {e : Res State} (h : pushStops s k = some e)
    (f : State → Res State) : andThen e f = e := by
  obtain ⟨_, -, hi⟩ := List.exists_of_findSome?_eq_some h
  exact andThen_of_writeStop hi f

theorem storeRegs_of_stop {s : State} {off : Word} {n : Reg} {k : Nat} {e : Res State}
    (h : writeStops s s.dseg (alignOff k off) k = some e) : s.storeRegs off n k = e :=
  State.writeMem_of_stop (by rwa [State.regs_length])

/-- Reading the coprocessor registers may draw free values, which changes no stop (45_coprocessor.md R388). -/
theorem storeCregs_of_stop {s : State} {m : Reg} {k : Nat} {e : Res State} (hc : s.dev.coprocessor ≠ .absent)
    (h : writeStops s s.dseg (alignOff k s.ea) k = some e) : s.storeCregs m k = e := by
  rw [State.storeCregs, State.needCoprocessor, if_neg hc, andThen_next, cregsDrawn_eq]
  exact State.writeMem_of_stop (by rwa [State.cregs_length])

/-- An instruction that reads the byte at `DSEG:off` and writes it back changed. -/
def IsUpdate (s : State) (off : Word) (r : Res State) : Prop :=
  ∃ (f : Byte → Byte) (g : Byte → State → Res State),
    r = andThen (s.readByte s.dseg off) fun p => andThen (p.2.writeMem s.dseg off [f p.1]) (g p.1)

theorem updateForms_exec (s : State) (bit : BitVec 3) (dadr : Word) :
    ∀ x ∈ updateForms s bit dadr, IsUpdate s x.2 (exec x.1 s) := by
  simp only [updateForms, List.forall_mem_cons, List.not_mem_nil, false_implies, implies_true, and_true]
  exact
    ⟨⟨fun v => (addN v 1 false).val, fun v t => .next (t.setPsw (putZSOVHC t.psw (addN v 1 false))).done, rfl⟩,
      ⟨fun v => (subN v 1 false).val, fun v t => .next (t.setPsw (putZSOVHC t.psw (subN v 1 false))).done, rfl⟩,
      ⟨fun v => putBit v bit.toNat true, fun v t => .next (t.testBit v bit).done2, rfl⟩,
      ⟨fun v => putBit v bit.toNat false, fun v t => .next (t.testBit v bit).done2, rfl⟩⟩

namespace IsUpdate

theorem of_absent {s : State} {off : Word} {r : Res State} (hr : IsUpdate s off r) (h : someAbsent s s.dseg off 1) :
    r = .fault .readAbsent := by
  obtain ⟨f, g, rfl⟩ := hr
  rw [readByte_of_someAbsent h, andThen_fault]

/-- The write back stops where the byte can be read and not be written. -/
theorem of_stop {s : State} {off : Word} {r e : Res State} (hr : IsUpdate s off r) (ha : answered s s.dseg off 1)
    (h : writeStops s s.dseg off 1 = some e) : r = e := by
  obtain ⟨f, g, rfl⟩ := hr
  obtain ⟨b, hb, -⟩ := s.readByte_of_answered s.dseg off (by simpa [answered, keysOf_succ] using ha)
  have hw (c : Nat) : (s.drawn c).writeMem s.dseg off [f b] = e := State.writeMem_of_stop h
  rw [hb, andThen_next, hw]
  exact andThen_of_writeStops h _

end IsUpdate

/-- BRK enters level 2 or resets, by the level it begins at (48_branch.md R463). -/
theorem exec_brk (s : State) :
    exec .brk s = if 2 ≤ s.useLevel.toNat then s.resetSequence else s.enter 2#2 0x0004#16 s.nextPc false s.psw := rfl

/-- Settles O6: fetches, vector reads, reads and writes, each by the stop of the operation its form begins with. -/
theorem accessStops : Obligations.AccessStops := by
  refine ⟨fun s u hb hpc => ?fetch, fun s e => ⟨?request, ?swi, ?brk, fun h => ⟨?resetInput, ?brkReset⟩⟩,
    fun s n m disp dadr d6 bit => ⟨?load, ?coLoad, List.forall_mem_cons.2 ⟨?test, ?updateRead⟩, popForms_of_absent s n,
      ?popList⟩,
    fun s n m disp dadr d6 bit e => ⟨?store, ?coStore, ?updateWrite, ?push, ?pushList⟩⟩
  case fetch =>
    have hstep : step s = runInstr u := by rw [step, hb]
    rw [hstep]
    exact ⟨fun _ => runInstr_of_firstWord_stop hpc, runInstr_of_unlisted hpc,
      fun _ _ => runInstr_of_secondWord_stop hpc⟩
  case request =>
    intro q u hb hp h
    rw [step, hb]
    exact acceptRequest_of_fetchStop hp h
  case swi =>
    intro snum h
    rw [exec_swiSnum]
    exact enter_of_fetchStop rfl (swiVector_even snum) h
  case brk =>
    intro hl h
    rw [exec_brk, if_neg (by omega)]
    exact enter_of_fetchStop rfl rfl h
  case resetInput =>
    intro hr
    have hb : s.boundary = .reset := if_pos hr
    rw [step, hb]
    exact resetSequence_of_fetchStop (s := { s with resetIn := false }) h
  case brkReset =>
    intro hl
    rw [exec_brk, if_pos hl]
    exact resetSequence_of_fetchStop h
  case load =>
    intro x hx h
    obtain ⟨-, hexec⟩ := loadForms_exec s n m disp dadr d6 x hx
    rw [hexec, s.loadRegs_of_absent _ _ _ h, andThen_fault]
  case coLoad =>
    intro hc x hx h
    obtain ⟨-, hoff, -, hexec⟩ := coLoadForms_exec s n x hx
    rw [hoff] at h
    rw [hexec, loadCregs_of_absent hc h, andThen_fault]
  case test => exact tb_of_absent bit
  case updateRead => exact fun x hx => (updateForms_exec s bit dadr x hx).of_absent
  case popList =>
    intro p hp h
    rw [popLists_exec s p hp]
    exact popsTo_stop (popsTo_popList s p.1) h
  case store =>
    intro x hx h
    obtain ⟨-, hexec⟩ := storeForms_exec s n m disp dadr d6 x hx
    rw [hexec, storeRegs_of_stop h, andThen_of_writeStops h]
  case coStore =>
    intro hc x hx h
    obtain ⟨-, hoff, -, hexec⟩ := coStoreForms_exec s m x hx
    rw [hoff] at h
    rw [hexec, storeCregs_of_stop hc h, andThen_of_writeStops h]
  case updateWrite => exact fun x hx => (updateForms_exec s bit dadr x hx).of_stop
  case push =>
    intro x hx h
    obtain ⟨-, -, hexec⟩ := pushForms_exec s n x hx
    rw [hexec, pushItems_of_stop (by rwa [List.length_reverse]), andThen_of_pushStops h]
  case pushList =>
    intro p hp hlevel h
    rw [pushLists_exec s p hp, pushList_eq hlevel, pushItems_of_stop (by rwa [List.length_reverse]),
      andThen_of_pushStops h]

end Sys2Proof.Proofs.DataMemory
end

section
/-! SUPPORT. The fields of a first word, and the group of the decoder its major nibble selects (30_encoding.md R160,
R166): for O7 and O8. -/
namespace Sys2Proof.Proofs.Encoding
open Sys2Proof

/-! Words put together again from their fields -/

theorem field_append_field {k l : Nat} (v : BitVec (k + l)) : v.extractLsb' l k ++ v.extractLsb' 0 l = v := by
  rw [BitVec.extractLsb'_append_extractLsb'_eq_extractLsb' (Nat.zero_add l).symm, BitVec.extractLsb'_eq_self]

theorem topBit_append_rest {l : Nat} (v : BitVec (1 + l)) : BitVec.ofBool v.msb ++ v.extractLsb' 0 l = v := by
  have top : v.extractLsb' l 1 = BitVec.ofBool v.msb := by
    apply BitVec.eq_of_getLsbD_eq
    intro i hi
    obtain rfl : i = 0 := by omega
    simp [BitVec.msb_eq_getLsbD_last]
  rw [← top, field_append_field]

theorem nibble_append_nibble (lo : BitVec 8) : (lo.extractLsb' 4 4 ++ lo.extractLsb' 0 4 : BitVec 8) = lo :=
  field_append_field (k := 4) (l := 4) lo

/-- The register forms of the bit instructions and the shifts by a width keep three bits of a nibble. -/
theorem bit_append_low3 {m : BitVec 4} {b : Bool} (h : m.msb = b) :
    (BitVec.ofBool b ++ m.extractLsb' 0 3 : BitVec 4) = m := h ▸ topBit_append_rest (l := 3) m

theorem bit_append_low7 {lo : BitVec 8} {b : Bool} (h : lo.msb = b) :
    (BitVec.ofBool b ++ lo.extractLsb' 0 7 : BitVec 8) = lo := h ▸ topBit_append_rest (l := 7) lo

theorem high2_append_low6 {lo : BitVec 8} {k : BitVec 2} (h : lo.extractLsb' 6 2 = k) :
    (k ++ lo.extractLsb' 0 6 : BitVec 8) = lo := h ▸ field_append_field (k := 2) (l := 6) lo

theorem firstWord_of_fields (w : Word) :
    firstWord (w.extractLsb' 12 4) (w.extractLsb' 8 4) (w.extractLsb' 0 8) = w := by
  have high : (w.extractLsb' 12 4 ++ w.extractLsb' 8 4 : BitVec 8) = w.extractLsb' 8 8 :=
    BitVec.extractLsb'_append_extractLsb'_eq_extractLsb' rfl
  rw [firstWord_eq, high, append_bytes_of_word]

/-! The fields of a word put together -/

@[simp] theorem low3_append (b : BitVec 1) (v : BitVec 3) : (b ++ v : BitVec 4).extractLsb' 0 3 = v :=
  BitVec.extractLsb'_append_eq_right

@[simp] theorem msb_append_low3 (b : BitVec 1) (v : BitVec 3) : (b ++ v : BitVec 4).msb = b.msb :=
  BitVec.msb_append (x := b) (y := v)

@[simp] theorem low7_append (b : BitVec 1) (v : BitVec 7) : (b ++ v : BitVec 8).extractLsb' 0 7 = v :=
  BitVec.extractLsb'_append_eq_right

@[simp] theorem msb_append_low7 (b : BitVec 1) (v : BitVec 7) : (b ++ v : BitVec 8).msb = b.msb :=
  BitVec.msb_append (x := b) (y := v)

@[simp] theorem low6_append (k : BitVec 2) (v : BitVec 6) : (k ++ v : BitVec 8).extractLsb' 0 6 = v :=
  BitVec.extractLsb'_append_eq_right

@[simp] theorem high2_append (k : BitVec 2) (v : BitVec 6) : (k ++ v : BitVec 8).extractLsb' 6 2 = k :=
  BitVec.extractLsb'_append_eq_left

/-! The major nibble selects the group (30_encoding.md R166) -/

section
variable (n : BitVec 4) (lo : BitVec 8) (w2 : Word)

theorem decodeWords_imm8 {a : BitVec 4} (h : a.msb = false) :
    decodeWords (firstWord a n lo) w2 = decodeImm8 a n lo := by
  simp only [decodeWords, firstWord_major, firstWord_second, firstWord_low]
  split
  case h_9 => rfl
  all_goals cases h

@[simp] theorem decodeWords_group8 :
    decodeWords (firstWord 0x8#4 n lo) w2 = decode8 n (lo.extractLsb' 4 4) (lo.extractLsb' 0 4) := by
  simp [decodeWords]

@[simp] theorem decodeWords_group9 :
    decodeWords (firstWord 0x9#4 n lo) w2 = decode9 n (lo.extractLsb' 4 4) (lo.extractLsb' 0 4) w2 := by
  simp [decodeWords]

@[simp] theorem decodeWords_groupA :
    decodeWords (firstWord 0xA#4 n lo) w2 = decodeA n (lo.extractLsb' 4 4) (lo.extractLsb' 0 4) w2 := by
  simp [decodeWords]

@[simp] theorem decodeWords_groupB : decodeWords (firstWord 0xB#4 n lo) w2 = decodeB n lo := by simp [decodeWords]

@[simp] theorem decodeWords_groupC : decodeWords (firstWord 0xC#4 n lo) w2 = decodeC n lo := by simp [decodeWords]

@[simp] theorem decodeWords_groupD : decodeWords (firstWord 0xD#4 n lo) w2 = decodeD n lo := by simp [decodeWords]

@[simp] theorem decodeWords_groupE : decodeWords (firstWord 0xE#4 n lo) w2 = decodeE n lo := by simp [decodeWords]

@[simp] theorem decodeWords_groupF :
    decodeWords (firstWord 0xF#4 n lo) w2 = decodeF n (lo.extractLsb' 4 4) (lo.extractLsb' 0 4) w2 := by
  simp [decodeWords]

end

end Sys2Proof.Proofs.Encoding
end

section
/-! SUPPORT. Every word the decoder accepts is the encoding of what it answers, group by group: O8. -/
namespace Sys2Proof.Proofs.Encoding
open Sys2Proof

/-- The words w1, w2 (w1 alone, where the instruction has one word) are the encoding of the well-formed i. -/
def IsEncoding (w1 w2 : Word) (i : Instr) : Prop :=
  i.wf = true ∧ encode i = if i.isTwoWord then [w1, w2] else [w1]

theorem IsEncoding.of_low {a n : BitVec 4} {lo lo' : BitVec 8} {w2 : Word} {i : Instr} (h : lo' = lo)
    (hi : IsEncoding (firstWord a n lo') w2 i) : IsEncoding (firstWord a n lo) w2 i := h ▸ hi

/-- Where the decoder answers d for the words w1, w2, they are the encoding of the answer. -/
def AnswersEncoding (w1 w2 : Word) (d : Option Instr) : Prop := ∀ i, d = some i → IsEncoding w1 w2 i

namespace AnswersEncoding
variable {w1 w2 : Word} {i : Instr}

theorem of_none : AnswersEncoding w1 w2 none := nofun

theorem of_some (h : IsEncoding w1 w2 i) : AnswersEncoding w1 w2 (some i) := by
  rintro _ ⟨⟩
  exact h

theorem of_listedIf {c : Bool} (h : c = true → IsEncoding w1 w2 i) : AnswersEncoding w1 w2 (listedIf c i) := by
  cases c
  · exact .of_none
  · exact .of_some (h rfl)

/-- A field with one listed value (30_encoding.md R164). -/
theorem of_listedIf_beq {k : Nat} {x y : BitVec k} (h : x = y → IsEncoding w1 w2 i) :
    AnswersEncoding w1 w2 (listedIf (x == y) i) := .of_listedIf fun hx => h (eq_of_beq hx)

/-- A field with one listed value beside a condition on another one. -/
theorem of_listedIf_beq_and {k : Nat} {x y : BitVec k} {c : Bool} (h : x = y → c = true → IsEncoding w1 w2 i) :
    AnswersEncoding w1 w2 (listedIf (x == y && c) i) := by
  refine .of_listedIf fun hxc => ?_
  obtain ⟨hx, hc⟩ := (Bool.and_eq_true _ _).mp hxc
  exact h (eq_of_beq hx) hc

end AnswersEncoding

/-! The groups without register fields of forced zero bits -/

theorem decodeImm8_encoding (a n : BitVec 4) (imm : BitVec 8) (w2 : Word) :
    AnswersEncoding (firstWord a n imm) w2 (decodeImm8 a n imm) := by
  unfold decodeImm8
  split
  case h_9 => exact .of_none
  all_goals exact .of_some ⟨rfl, rfl⟩

theorem decodeC_encoding (cond : BitVec 4) (disp : BitVec 8) (w2 : Word) :
    AnswersEncoding (firstWord 0xC#4 cond disp) w2 (decodeC cond disp) := by
  unfold decodeC
  split
  case h_16 => exact .of_none
  all_goals exact .of_some ⟨rfl, rfl⟩

theorem decodeD_encoding (n : BitVec 4) (lo : BitVec 8) (w2 : Word) :
    AnswersEncoding (firstWord 0xD#4 n lo) w2 (decodeD n lo) := by
  unfold decodeD
  split
  case h_5 => exact .of_none
  all_goals next h => exact .of_some (.of_low (high2_append_low6 h) ⟨rfl, rfl⟩)

/-! Group 8 -/

theorem decodeAdjust_encoding (n m : BitVec 4) (w2 : Word) :
    AnswersEncoding (firstWord 0x8#4 n (m ++ 0xF#4)) w2 (decodeAdjust n m) := by
  unfold decodeAdjust
  split
  case h_1 | h_2 | h_3 => exact .of_some ⟨rfl, rfl⟩
  case h_12 => exact .of_none
  all_goals exact .of_listedIf_beq (by rintro rfl; exact ⟨rfl, rfl⟩)

theorem decode8_encoding (n m op : BitVec 4) (w2 : Word) :
    AnswersEncoding (firstWord 0x8#4 n (m ++ op)) w2 (decode8 n m op) := by
  unfold decode8
  split
  case h_16 => exact decodeAdjust_encoding n m w2
  case h_17 => exact .of_none
  all_goals exact .of_some ⟨rfl, rfl⟩

/-! Group 9 -/

/-- The addressing nibble of a load or store (30_encoding.md R166). -/
theorem decodeAddressing_encoding {a n op : BitVec 4} {w2 : Word} {m : BitVec 4} {dadr ea eaInc erm : Option Instr}
    (hdadr : AnswersEncoding (firstWord a n (0x1#4 ++ op)) w2 dadr)
    (hea : AnswersEncoding (firstWord a n (0x3#4 ++ op)) w2 ea)
    (heaInc : AnswersEncoding (firstWord a n (0x5#4 ++ op)) w2 eaInc)
    (herm : isErNumber m = true → AnswersEncoding (firstWord a n (m ++ op)) w2 erm) :
    AnswersEncoding (firstWord a n (m ++ op)) w2 (decodeAddressing m dadr ea eaInc erm) := by
  unfold decodeAddressing
  split
  case isTrue h => exact herm h
  case isFalse =>
    split
    case h_1 => exact hdadr
    case h_2 => exact hea
    case h_3 => exact heaInc
    case h_4 => exact .of_none

/-- A shift by a width (41_shift.md): bit 7 of the word is 0. -/
theorem shiftWidth_encoding {n m op : BitVec 4} {w2 : Word} {i : Instr}
    (h : IsEncoding (firstWord 0x9#4 n ((0b0#1 ++ m.extractLsb' 0 3 : BitVec 4) ++ op)) w2 i) :
    AnswersEncoding (firstWord 0x9#4 n (m ++ op)) w2 (listedIf (!m.msb) i) :=
  .of_listedIf fun hm => .of_low (congrArg (· ++ op) (bit_append_low3 (b := false) (by simpa using hm))) h

theorem decode9_encoding (n m op : BitVec 4) (w2 : Word) :
    AnswersEncoding (firstWord 0x9#4 n (m ++ op)) w2 (decode9 n m op w2) := by
  unfold decode9
  split
  case h_1 | h_2 =>
    exact decodeAddressing_encoding (.of_some ⟨rfl, rfl⟩) (.of_some ⟨rfl, rfl⟩) (.of_some ⟨rfl, rfl⟩) fun hm =>
      .of_some ⟨hm, rfl⟩
  case h_3 | h_4 =>
    split
    case isTrue hn =>
      exact decodeAddressing_encoding (.of_some ⟨hn, rfl⟩) (.of_some ⟨hn, rfl⟩) (.of_some ⟨hn, rfl⟩) fun hm =>
        .of_some ⟨Bool.and_eq_true_iff.2 ⟨hn, hm⟩, rfl⟩
    case isFalse => exact .of_none
  case h_5 | h_6 | h_7 | h_8 =>
    split
    case isTrue hn =>
      exact decodeAddressing_encoding .of_none (.of_some ⟨hn, rfl⟩) (.of_some ⟨hn, rfl⟩) fun _ => .of_none
    case isFalse => exact .of_none
  case h_9 | h_10 => exact .of_listedIf fun hm => ⟨hm, rfl⟩
  case h_11 | h_12 | h_13 | h_14 | h_15 => exact shiftWidth_encoding ⟨rfl, rfl⟩
  case h_16 => exact .of_listedIf_beq (by rintro rfl; exact ⟨rfl, rfl⟩)
  case h_17 => exact .of_none

/-! Group A -/

theorem decodeBit_encoding {n m op : BitVec 4} {w2 : Word} {register memory : Instr}
    (hr : IsEncoding (firstWord 0xA#4 n ((0b0#1 ++ m.extractLsb' 0 3 : BitVec 4) ++ op)) w2 register)
    (hm : IsEncoding (firstWord 0xA#4 0x0#4 ((0b1#1 ++ m.extractLsb' 0 3 : BitVec 4) ++ op)) w2 memory) :
    AnswersEncoding (firstWord 0xA#4 n (m ++ op)) w2 (decodeBit n m register memory) := by
  unfold decodeBit
  split
  case isTrue h =>
    refine .of_listedIf_beq ?_
    rintro rfl
    exact .of_low (congrArg (· ++ op) (bit_append_low3 h)) hm
  case isFalse h => exact .of_some (.of_low (congrArg (· ++ op) (bit_append_low3 (b := false) (by simpa using h))) hr)

theorem decodeA_encoding (n m op : BitVec 4) (w2 : Word) :
    AnswersEncoding (firstWord 0xA#4 n (m ++ op)) w2 (decodeA n m op w2) := by
  unfold decodeA
  split
  case h_1 | h_2 | h_3 => exact decodeBit_encoding ⟨rfl, rfl⟩ ⟨rfl, rfl⟩
  case h_4 | h_5 | h_8 | h_12 | h_13 | h_16 => exact .of_listedIf_beq (by rintro rfl; exact ⟨rfl, rfl⟩)
  case h_6 | h_14 => exact .of_listedIf_beq_and (by rintro rfl hn; exact ⟨hn, rfl⟩)
  case h_7 | h_15 => exact .of_some ⟨rfl, rfl⟩
  case h_9 | h_10 => exact .of_listedIf fun h => ⟨h, rfl⟩
  case h_11 =>
    split
    case isTrue hm => exact .of_listedIf_beq (by rintro rfl; exact ⟨hm, rfl⟩)
    case isFalse => exact .of_listedIf_beq_and (by rintro rfl hn; exact ⟨hn, rfl⟩)
  case h_17 => exact .of_none

/-! Groups B and E -/

theorem decodeB_encoding (n : BitVec 4) (lo : BitVec 8) (w2 : Word) :
    AnswersEncoding (firstWord 0xB#4 n lo) w2 (decodeB n lo) := by
  unfold decodeB
  split
  case isTrue hn =>
    split
    case h_5 => exact .of_none
    all_goals next h => exact .of_some (.of_low (high2_append_low6 h) ⟨hn, rfl⟩)
  case isFalse => exact .of_none

/-- A single word beside another one of the same second nibble. -/
theorem twoWords_encoding {a n : BitVec 4} {lo lo1 lo2 : BitVec 8} {w2 : Word} {i j : Instr}
    (hi : IsEncoding (firstWord a n lo1) w2 i) (hj : IsEncoding (firstWord a n lo2) w2 j) :
    AnswersEncoding (firstWord a n lo) w2 (if lo == lo1 then some i else listedIf (lo == lo2) j) := by
  split
  case isTrue h => exact .of_some (.of_low (eq_of_beq h).symm hi)
  case isFalse => exact .of_listedIf_beq fun h => .of_low h.symm hj

theorem decodeE_encoding (n : BitVec 4) (lo : BitVec 8) (w2 : Word) :
    AnswersEncoding (firstWord 0xE#4 n lo) w2 (decodeE n lo) := by
  unfold decodeE
  split
  case isTrue hn =>
    split
    case isTrue h => exact .of_some (.of_low (bit_append_low7 h) ⟨hn, rfl⟩)
    case isFalse h => exact .of_some (.of_low (bit_append_low7 (b := false) (by simpa using h)) ⟨hn, rfl⟩)
  case isFalse =>
    split
    case h_3 => exact .of_listedIf_beq fun h => .of_low (high2_append_low6 h) ⟨rfl, rfl⟩
    case h_5 | h_6 => exact twoWords_encoding ⟨rfl, rfl⟩ ⟨rfl, rfl⟩
    case h_7 => exact .of_none
    all_goals exact .of_some ⟨rfl, rfl⟩

/-! Group F -/

theorem decodeCoprocessor_encoding (r m : BitVec 4) (w2 : Word) :
    AnswersEncoding (firstWord 0xF#4 r (m ++ 0xD#4)) w2 (decodeCoprocessor r m) := by
  unfold decodeCoprocessor
  split
  case h_1 | h_2 | h_9 | h_10 => exact .of_some ⟨rfl, rfl⟩
  case h_17 => exact .of_none
  all_goals exact .of_listedIf fun hr => ⟨hr, rfl⟩

theorem decodePushList_encoding (lepa : BitVec 4) (w2 : Word) :
    AnswersEncoding (firstWord 0xF#4 lepa 0xCE#8) w2 (decodePushList lepa) := by
  unfold decodePushList
  split
  case h_16 => exact .of_none
  all_goals exact .of_some ⟨rfl, rfl⟩

theorem decodePopList_encoding (lepa : BitVec 4) (w2 : Word) :
    AnswersEncoding (firstWord 0xF#4 lepa 0x8E#8) w2 (decodePopList lepa) := by
  unfold decodePopList
  split
  case h_16 => exact .of_none
  all_goals exact .of_some ⟨rfl, rfl⟩

theorem decodeStack_encoding (r m : BitVec 4) (w2 : Word) :
    AnswersEncoding (firstWord 0xF#4 r (m ++ 0xE#4)) w2 (decodeStack r m) := by
  unfold decodeStack
  split
  case h_1 | h_5 => exact .of_some ⟨rfl, rfl⟩
  case h_9 => exact decodePopList_encoding r w2
  case h_10 => exact decodePushList_encoding r w2
  case h_11 => exact .of_none
  all_goals exact .of_listedIf fun hr => ⟨hr, rfl⟩

theorem decodeFixed_encoding (n m : BitVec 4) (w2 : Word) :
    AnswersEncoding (firstWord 0xF#4 n (m ++ 0xF#4)) w2 (decodeFixed n m) := by
  unfold decodeFixed
  split
  case h_1 =>
    split
    case h_8 => exact .of_none
    all_goals exact .of_some ⟨rfl, rfl⟩
  case h_2 => exact .of_listedIf_beq (by rintro rfl; exact ⟨rfl, rfl⟩)
  case h_3 => exact .of_none

theorem decodeF_encoding (n m op : BitVec 4) (w2 : Word) :
    AnswersEncoding (firstWord 0xF#4 n (m ++ op)) w2 (decodeF n m op w2) := by
  unfold decodeF
  split
  case h_1 | h_2 => exact .of_listedIf_beq (by rintro rfl; exact ⟨rfl, rfl⟩)
  case h_3 | h_4 | h_10 | h_11 => exact .of_listedIf_beq_and (by rintro rfl hm; exact ⟨hm, rfl⟩)
  case h_5 | h_6 | h_7 | h_8 | h_9 => exact .of_listedIf fun h => ⟨h, rfl⟩
  case h_12 => exact .of_listedIf_beq_and (by rintro rfl hm; cases eq_of_beq hm; exact ⟨rfl, rfl⟩)
  case h_13 => exact decodeCoprocessor_encoding n m w2
  case h_14 => exact decodeStack_encoding n m w2
  case h_15 => exact decodeFixed_encoding n m w2
  case h_16 => exact .of_none

/-! All groups -/

/-- The decoder reads the low byte as two nibbles in the groups 8, 9, A and F. -/
theorem AnswersEncoding.of_nibbles {a n : BitVec 4} {lo : BitVec 8} {w2 : Word}
    {d : BitVec 4 → BitVec 4 → Option Instr} (h : ∀ m op, AnswersEncoding (firstWord a n (m ++ op)) w2 (d m op)) :
    AnswersEncoding (firstWord a n lo) w2 (d (lo.extractLsb' 4 4) (lo.extractLsb' 0 4)) := by
  have hlo := h (lo.extractLsb' 4 4) (lo.extractLsb' 0 4)
  rwa [nibble_append_nibble] at hlo

theorem decodeWords_encoding (w1 w2 : Word) : AnswersEncoding w1 w2 (decodeWords w1 w2) := by
  rw [← firstWord_of_fields w1]
  generalize w1.extractLsb' 12 4 = a, w1.extractLsb' 8 4 = n, w1.extractLsb' 0 8 = lo
  simp only [decodeWords, firstWord_major, firstWord_second, firstWord_low, firstWord_third, firstWord_last]
  split
  case h_1 => exact .of_nibbles fun m op => decode8_encoding n m op w2
  case h_2 => exact .of_nibbles fun m op => decode9_encoding n m op w2
  case h_3 => exact .of_nibbles fun m op => decodeA_encoding n m op w2
  case h_4 => exact decodeB_encoding n lo w2
  case h_5 => exact decodeC_encoding n lo w2
  case h_6 => exact decodeD_encoding n lo w2
  case h_7 => exact decodeE_encoding n lo w2
  case h_8 => exact .of_nibbles fun m op => decodeF_encoding n m op w2
  case h_9 => exact decodeImm8_encoding a n lo w2

/-- Settles O8, by the case of the decoder that answers. -/
theorem decodedWordsEncodeBack : Obligations.DecodedWordsEncodeBack :=
  decodeWords_encoding

end Sys2Proof.Proofs.Encoding
end

section
/-! SUPPORT. The encoding of a well-formed instruction decodes to it, as words and as bytes: O7 and O9. -/
namespace Sys2Proof.Proofs.Encoding
open Sys2Proof

/-! What the shared parts of the decoder answer -/

@[simp] theorem listedIf_true (i : Instr) : listedIf true i = some i := rfl

section
variable {m : BitVec 4} (dadr ea eaInc erm : Option Instr)

theorem decodeAddressing_erm (h : isErNumber m = true) : decodeAddressing m dadr ea eaInc erm = erm := if_pos h

@[simp] theorem decodeAddressing_dadr : decodeAddressing 0x1#4 dadr ea eaInc erm = dadr := rfl

@[simp] theorem decodeAddressing_ea : decodeAddressing 0x3#4 dadr ea eaInc erm = ea := rfl

@[simp] theorem decodeAddressing_eaInc : decodeAddressing 0x5#4 dadr ea eaInc erm = eaInc := rfl

end

/-- The register forms of the bit instructions have bit 7 clear (47_bit_psw.md). -/
@[simp] theorem decodeBit_register (n : BitVec 4) (bit : BitVec 3) (register memory : Instr) :
    decodeBit n (0b0#1 ++ bit : BitVec 4) register memory = some register := by
  simp [decodeBit]

/-- The memory forms of the bit instructions have bit 7 set and the register field 0000 (47_bit_psw.md). -/
@[simp] theorem decodeBit_memory (bit : BitVec 3) (register memory : Instr) :
    decodeBit 0x0#4 (0b1#1 ++ bit : BitVec 4) register memory = some memory := by
  simp [decodeBit]

/-! From the encoding to the instruction -/

/-- The words of a well-formed instruction decode to it: the group of its major nibble has the case that answers it. -/
theorem IsEncoding.decodeWords_eq {w1 w2 : Word} {i : Instr} (h : IsEncoding w1 w2 i) :
    decodeWords w1 w2 = some i := by
  obtain ⟨hwf, henc⟩ := h
  cases i <;> cases henc
  case movRnImm8 | addRnImm8 | andRnImm8 | orRnImm8 | xorRnImm8 | cmpcRnImm8 | addcRnImm8 | cmpRnImm8 =>
    exact decodeWords_imm8 _ _ _ rfl
  case addRnRm | movRnRm | addcRnRm | cmpRnRm | cmpcRnRm | andRnRm | orRnRm | xorRnRm | subRnRm | subcRnRm | sllRnRm
      | sllcRnRm | sraRnRm | srlRnRm | srlcRnRm =>
    simp [decode8]
  case daaRn | dasRn | negRn | extbwEr0 | extbwEr2 | extbwEr4 | extbwEr6 | extbwEr8 | extbwEr10 | extbwEr12
      | extbwEr14 =>
    simp [decode8, decodeAdjust]
  case sllRnWidth | sllcRnWidth | sraRnWidth | srlRnWidth | srlcRnWidth | dsrPrefixRd | lRnEa | lRnEaInc | lRnDadr
      | stRnEa | stRnEaInc | stRnDadr =>
    simp [decode9]
  case lRnErm | lRnDisp16Erm | lErnEa | lErnEaInc | lErnDadr | lXrnEa | lXrnEaInc | lQrnEa | lQrnEaInc | stRnErm
      | stRnDisp16Erm | stErnEa | stErnEaInc | stErnDadr | stXrnEa | stXrnEaInc | stQrnEa | stQrnEaInc =>
    simp only [Instr.wf] at hwf
    simp [decode9, hwf, decodeAddressing_erm]
  case lErnErm | stErnErm =>
    simp only [Instr.wf, Bool.and_eq_true] at hwf
    simp [decode9, hwf, decodeAddressing_erm]
  case movEcsrRm | movEpswRm | movPswRm | movRnEcsr | movRnEpsw | movRnPsw | movCrnRm | movRnCrm | sbRnBit | sbDbitadr
      | rbRnBit | rbDbitadr | tbRnBit | tbDbitadr =>
    simp [decodeA]
  case movErnSp =>
    simp only [Instr.wf] at hwf
    simp [decodeA, show isErNumber 0x1#4 = false from rfl, hwf]
  case movElrErm | movErnElr | movSpErm | lErnDisp16Erm | stErnDisp16Erm =>
    simp only [Instr.wf] at hwf
    simp [decodeA, hwf]
  case lErnDisp6Bp | lErnDisp6Fp | stErnDisp6Bp | stErnDisp6Fp =>
    simp only [Instr.wf] at hwf
    simp [decodeB, hwf]
  case bgeRadr | bltRadr | bgtRadr | bleRadr | bgesRadr | bltsRadr | bgtsRadr | blesRadr | bneRadr | beqRadr | bnvRadr
      | bovRadr | bpsRadr | bnsRadr | balRadr =>
    simp [decodeC]
  case lRnDisp6Bp | lRnDisp6Fp | stRnDisp6Bp | stRnDisp6Fp => simp [decodeD]
  case dsrPrefixImm8 | addSpSigned8 | movPswUnsigned8 | ei | di | sc | rc | swiSnum => simp [decodeE, isErNumber]
  case movErnImm7 | addErnImm7 =>
    simp only [Instr.wf] at hwf
    simp [decodeE, hwf]
  case bCadr | blCadr | leaDadr => simp [decodeF]
  case movErnErm | addErnErm | cmpErnErm | mulErnRm | divErnRm | leaErm | leaDisp16Erm | bErn | blErn =>
    simp only [Instr.wf] at hwf
    simp [decodeF, hwf]
  case movCrnEa | movCrnEaInc | movEaCrm | movEaIncCrm => simp [decodeF, decodeCoprocessor]
  case movCernEa | movCernEaInc | movCxrnEa | movCxrnEaInc | movCqrnEa | movCqrnEaInc | movEaCerm | movEaIncCerm
      | movEaCxrm | movEaIncCxrm | movEaCqrm | movEaIncCqrm =>
    simp only [Instr.wf] at hwf
    simp [decodeF, decodeCoprocessor, hwf]
  case pushRn | popRn => simp [decodeF, decodeStack]
  case pushErn | pushXrn | pushQrn | popErn | popXrn | popQrn =>
    simp only [Instr.wf] at hwf
    simp [decodeF, decodeStack, hwf]
  case pushEa | pushElr | pushEaElr | pushEpsw | pushEaEpsw | pushElrEpsw | pushEaElrEpsw | pushLr | pushEaLr
      | pushElrLr | pushEaElrLr | pushEpswLr | pushEaEpswLr | pushElrEpswLr | pushEaElrEpswLr =>
    simp [decodeF, decodeStack, decodePushList]
  case popEa | popPc | popEaPc | popPsw | popEaPsw | popPcPsw | popEaPcPsw | popLr | popEaLr | popPcLr | popEaPcLr
      | popPswLr | popEaPswLr | popPcPswLr | popEaPcPswLr =>
    simp [decodeF, decodeStack, decodePopList]
  case rti | rt | incEa | decEa | nop | dsrPrefixDsr | cplc | brk => simp [decodeF, decodeFixed]

/-! The second word -/

/-- The instruction with the word w in place of its 16-bit operand, where it has one. -/
def withSecondWord (w : Word) (i : Instr) : Instr :=
  match i with
  | .lRnDisp16Erm n m _ => .lRnDisp16Erm n m w
  | .lErnDisp16Erm n m _ => .lErnDisp16Erm n m w
  | .stRnDisp16Erm n m _ => .stRnDisp16Erm n m w
  | .stErnDisp16Erm n m _ => .stErnDisp16Erm n m w
  | .leaDisp16Erm m _ => .leaDisp16Erm m w
  | .lRnDadr n _ => .lRnDadr n w
  | .lErnDadr n _ => .lErnDadr n w
  | .stRnDadr n _ => .stRnDadr n w
  | .stErnDadr n _ => .stErnDadr n w
  | .leaDadr _ => .leaDadr w
  | .sbDbitadr bit _ => .sbDbitadr bit w
  | .rbDbitadr bit _ => .rbDbitadr bit w
  | .tbDbitadr bit _ => .tbDbitadr bit w
  | .bCadr g _ => .bCadr g w
  | .blCadr g _ => .blCadr g w
  | i => i

/-- The first word alone says that there is a second one (30_encoding.md R161): another second word gives the
instruction with another 16-bit operand. -/
theorem IsEncoding.change_secondWord {w1 w2 : Word} {i : Instr} (h : IsEncoding w1 w2 i) (h2 : i.isTwoWord = true)
    (w : Word) : IsEncoding w1 w (withSecondWord w i) ∧ (withSecondWord w i).isTwoWord = true := by
  obtain ⟨hwf, henc⟩ := h
  unfold Instr.isTwoWord at h2
  split at h2
  case h_16 => cases h2
  all_goals
    cases henc
    exact ⟨⟨hwf, rfl⟩, rfl⟩

/-! Bytes -/

theorem decode_oneWord {w : Word} {i : Instr} (rest : List Byte) (hd : decodeWords w 0 = some i)
    (h1 : i.isTwoWord = false) : decode (bytesOfWord w ++ rest) = .ok (i, rest) := by
  show decode (w.extractLsb' 0 8 :: w.extractLsb' 8 8 :: rest) = _
  simp only [decode, wordOfBytes_bytesOfWord, hd, h1, Bool.false_eq_true, if_false]

theorem decode_twoWords {w1 w2 : Word} {i j : Instr} (rest : List Byte) (hj : decodeWords w1 0 = some j)
    (h2 : j.isTwoWord = true) (hd : decodeWords w1 w2 = some i) :
    decode (bytesOfWord w1 ++ (bytesOfWord w2 ++ rest)) = .ok (i, rest) := by
  show decode (w1.extractLsb' 0 8 :: w1.extractLsb' 8 8 :: w2.extractLsb' 0 8 :: w2.extractLsb' 8 8 :: rest) = _
  simp only [decode, wordOfBytes_bytesOfWord, hj, h2, hd, if_true]

theorem encode_length (i : Instr) : Laws.EncodeLength.Statement i := by
  cases i <;> rfl

/-- Settles O7: the first word calls for a second one where the instruction has one, and the words decode to it. -/
theorem decodeOfEncodedInstruction : Obligations.DecodeOfEncodedInstruction := by
  intro i rest hwf
  have hlen : (encode i).length = if i.isTwoWord then 2 else 1 := encode_length i
  cases h2 : i.isTwoWord
  case false =>
    obtain ⟨w, henc⟩ := List.length_eq_one_iff.1 (by rwa [h2] at hlen)
    have hi : IsEncoding w 0 i := ⟨hwf, by rw [henc, h2]; rfl⟩
    simpa [encodeBytes, henc] using decode_oneWord rest hi.decodeWords_eq h2
  case true =>
    obtain ⟨w1, w2, henc⟩ := List.length_eq_two.1 (by rwa [h2] at hlen)
    have hi : IsEncoding w1 w2 i := ⟨hwf, by rw [henc, h2]; rfl⟩
    obtain ⟨hj, hj2⟩ := hi.change_secondWord h2 0
    simpa [encodeBytes, henc] using decode_twoWords rest hj.decodeWords_eq hj2 hi.decodeWords_eq

/-- Settles O9: each word is the encoding of its instruction. -/
theorem sampleWordsDecode : Obligations.SampleWordsDecode := by
  unfold Obligations.SampleWordsDecode
  and_intros
  all_goals exact IsEncoding.decodeWords_eq ⟨rfl, rfl⟩

end Sys2Proof.Proofs.Encoding
end

section
/-! SUPPORT. The shared operations of 40_arithmetic.md in the terms of Safety, each said once, and the results of the
arithmetic, logic and move instructions: O10 to O14. -/
namespace Sys2Proof.Proofs.Arithmetic
open Sys2Proof Sys2Proof.Machine

/-! The destination and PSW after a write of a result -/

@[simp] theorem writeArith_reg (s : State) (n : Reg) (x : Alu 8) : (s.writeArith n x).reg n = x.val := by
  simp [State.writeArith]

@[simp] theorem writeArith_psw (s : State) (n : Reg) (x : Alu 8) : (s.writeArith n x).psw = putArith s.psw x := rfl

@[simp] theorem writeSticky_reg (s : State) (n : Reg) (x : Alu 8) : (s.writeSticky n x).reg n = x.val := by
  simp [State.writeSticky]

@[simp] theorem writeSticky_psw (s : State) (n : Reg) (x : Alu 8) :
    (s.writeSticky n x).psw = putArithSticky s.psw x := rfl

@[simp] theorem writeLogic_reg (s : State) (n : Reg) (v : Byte) : (s.writeLogic n v).reg n = v := by
  simp [State.writeLogic]

@[simp] theorem writeArithEr_er (s : State) (n : Reg) (x : Alu 16) : (s.writeArithEr n x).er n = x.val := by
  simp [State.writeArithEr]

@[simp] theorem writeArithEr_psw (s : State) (n : Reg) (x : Alu 16) :
    (s.writeArithEr n x).psw = putArith s.psw x := rfl

@[simp] theorem writeLogicEr_er (s : State) (n : Reg) (v : Word) : (s.writeLogicEr n v).er n = v := by
  simp [State.writeLogicEr]

/-! Additions -/

/-- `ADD_8` into Rn (40_arithmetic.md R200). -/
theorem addedByte_writeArith (s : State) (n : Reg) (b : Byte) (cin : Bool) :
    addedByte s (s.writeArith n (addN (s.reg n) b cin)).done n b cin false :=
  ⟨writeArith_frame _ _ _ _, writeArith_reg _ _ _, by simpa using addFlags_putArith8 s.psw (s.reg n) b cin⟩

/-- `ADD_8` into Rn with the sticky Z (40_arithmetic.md R204). -/
theorem addedByte_writeSticky (s : State) (n : Reg) (b : Byte) (cin : Bool) :
    addedByte s (s.writeSticky n (addN (s.reg n) b cin)).done n b cin true :=
  ⟨writeSticky_frame _ _ _ _, writeSticky_reg _ _ _, by simpa using addFlags_putArithSticky s.psw (s.reg n) b cin⟩

/-- `ADD_16` into ERn (40_arithmetic.md R220). -/
theorem addedWord_writeArithEr (s : State) (n : Reg) (b : Word) :
    addedWord s (s.writeArithEr n (addN (s.er n) b false)).done n b :=
  ⟨writeArithEr_frame _ _ _ _, writeArithEr_er _ _ _, by simpa using addFlags_putArith16 s.psw (s.er n) b false⟩

/-- Settles O10: ADD is the plain addition, ADDC the one with C and the sticky Z. -/
theorem addByteResult : Obligations.AddByteResult := by
  intro n m imm s
  refine ⟨rfl, rfl, rfl, rfl, ⟨_, rfl, ?_⟩, ⟨_, rfl, ?_⟩, ⟨_, rfl, ?_⟩, ⟨_, rfl, ?_⟩⟩
  · exact addedByte_writeArith s n (s.reg m) false
  · exact addedByte_writeArith s n imm false
  · exact addedByte_writeSticky s n (s.reg m) (flagC s.psw)
  · exact addedByte_writeSticky s n imm (flagC s.psw)

/-! Subtractions and comparisons -/

/-- `SUB_8` into Rn (40_arithmetic.md R216, 46_lea_alu.md R405). -/
theorem subtractedByte_writeArith (s : State) (n : Reg) (a b : Byte) (bin : Bool) :
    subtractedByte s (s.writeArith n (subN a b bin)).done n a b bin false :=
  ⟨writeArith_frame _ _ _ _, writeArith_reg _ _ _, by simpa using subFlags_putArith8 s.psw a b bin⟩

/-- `SUB_8` into Rn with the sticky Z (40_arithmetic.md R217). -/
theorem subtractedByte_writeSticky (s : State) (n : Reg) (a b : Byte) (bin : Bool) :
    subtractedByte s (s.writeSticky n (subN a b bin)).done n a b bin true :=
  ⟨writeSticky_frame _ _ _ _, writeSticky_reg _ _ _, by simpa using subFlags_putArithSticky s.psw a b bin⟩

theorem setPsw_frame (s : State) (p : Byte) (off : Word) : onlyRegs s ((s.setPsw p).finish off) off [] :=
  onlyRegs_finish rfl rfl (fun _ _ => rfl) rfl rfl

/-- CMP of bytes (40_arithmetic.md R206). -/
theorem compared_bytes (s : State) (a b : Byte) :
    compared s (s.setPsw (putArith s.psw (subN a b false))).done a b false false :=
  ⟨setPsw_frame _ _ _, by simpa [subN] using subFlags_putArith8 s.psw a b false⟩

/-- CMPC of bytes (40_arithmetic.md R208). -/
theorem compared_bytes_sticky (s : State) (a b : Byte) (bin : Bool) :
    compared s (s.setPsw (putArithSticky s.psw (subN a b bin))).done a b bin true :=
  ⟨setPsw_frame _ _ _, subFlags_putArithSticky s.psw a b bin⟩

/-- CMP of words (40_arithmetic.md R222). -/
theorem compared_words (s : State) (a b : Word) :
    compared s (s.setPsw (putArith s.psw (subN a b false))).done a b false false :=
  ⟨setPsw_frame _ _ _, by simpa [subN] using subFlags_putArith16 s.psw a b false⟩

/-- Settles O11: the subtractions write Rn and PSW, the comparisons PSW alone. -/
theorem subtractAndCompareBytes : Obligations.SubtractAndCompareBytes := by
  refine ⟨fun n m s => ?_, fun n m imm s => ?_⟩
  · refine ⟨rfl, rfl, rfl, ⟨_, rfl, ?_⟩, ⟨_, rfl, ?_⟩, ⟨_, rfl, ?_⟩⟩
    · exact subtractedByte_writeArith s n (s.reg n) (s.reg m) false
    · exact subtractedByte_writeSticky s n (s.reg n) (s.reg m) (flagC s.psw)
    · exact subtractedByte_writeArith s n 0 (s.reg n) false
  · refine ⟨rfl, rfl, rfl, rfl, ⟨_, rfl, ?_⟩, ⟨_, rfl, ?_⟩, ⟨_, rfl, ?_⟩, ⟨_, rfl, ?_⟩⟩
    · exact compared_bytes s (s.reg n) (s.reg m)
    · exact compared_bytes s (s.reg n) imm
    · exact compared_bytes_sticky s (s.reg n) (s.reg m) (flagC s.psw)
    · exact compared_bytes_sticky s (s.reg n) imm (flagC s.psw)

/-! Results that set Z and S only -/

theorem wroteByte_writeLogic (s : State) (n : Reg) (v : Byte) : wroteByte s (s.writeLogic n v).done n v :=
  ⟨writeLogic_frame _ _ _ _, writeLogic_reg _ _ _, zsFlags_putLogic s.psw v⟩

theorem wroteWord_writeLogicEr (s : State) (n : Reg) (v : Word) : wroteWord s (s.writeLogicEr n v).done n v :=
  ⟨writeLogicEr_frame _ _ _ _, writeLogicEr_er _ _ _, zsFlags_putLogic s.psw v⟩

/-- Settles O12: the six forms write their bitwise result with Z and S. -/
theorem logicByteResult : Obligations.LogicByteResult := by
  intro n m imm s
  refine ⟨rfl, rfl, rfl, rfl, rfl, rfl, ⟨_, rfl, ?_⟩, ⟨_, rfl, ?_⟩, ⟨_, rfl, ?_⟩, ⟨_, rfl, ?_⟩, ⟨_, rfl, ?_⟩,
    ⟨_, rfl, ?_⟩⟩
  all_goals exact wroteByte_writeLogic s n _

/-- Settles O13: the moves write their source with Z and S. -/
theorem registerMoves : Obligations.RegisterMoves := by
  intro n m imm imm7 s
  refine ⟨rfl, rfl, rfl, rfl, ⟨_, rfl, ?_⟩, ⟨_, rfl, ?_⟩, ⟨_, rfl, ?_⟩, ⟨_, rfl, ?_⟩⟩
  · exact wroteByte_writeLogic s n (s.reg m)
  · exact wroteByte_writeLogic s n imm
  · exact wroteWord_writeLogicEr s n (s.er m)
  · exact wroteWord_writeLogicEr s n (imm7Value imm7)

/-- Settles O14: the additions write ERn and PSW, the comparison PSW alone. -/
theorem wordArithmetic : Obligations.WordArithmetic := by
  intro n m imm7 s
  refine ⟨rfl, rfl, rfl, ⟨_, rfl, ?_⟩, ⟨_, rfl, ?_⟩, ⟨_, rfl, ?_⟩⟩
  · exact addedWord_writeArithEr s n (s.er m)
  · exact addedWord_writeArithEr s n (imm7Value imm7)
  · exact compared_words s (s.er n) (s.er m)

end Sys2Proof.Proofs.Arithmetic
end

section
/-! SUPPORT. What the flags of a comparison say of its operands, and the branches that test them: O47. -/
namespace Sys2Proof.Proofs.Arithmetic
open Sys2Proof Sys2Proof.Machine

/-! The flags of a comparison -/

/-- The sign of a difference that may not fit in the signed range of `2 * h` values. -/
theorem bmod_neg_iff {h : Nat} {d : Int} (hlo : -(2 * h) < d) (hhi : d < 2 * h) :
    d.bmod (2 * h) < 0 ↔ d < 0 ∧ -h ≤ d ∨ h ≤ d := by
  by_cases below : d < -h
  · have hd : d.bmod (2 * h) = d + 2 * h := by
      rw [← Int.add_bmod_right d (2 * h)]
      exact_mod_cast Int.bmod_eq_of_le (by omega) (by omega)
    omega
  by_cases above : h ≤ d
  · have hd : d.bmod (2 * h) = d - 2 * h := by
      rw [← Int.sub_bmod_right d (2 * h)]
      exact_mod_cast Int.bmod_eq_of_le (by omega) (by omega)
    omega
  · rw [Int.bmod_eq_of_le (by omega) (by omega)]
    omega

/-- A difference is signed negative exactly if its top bit and its overflow disagree. -/
theorem overflow_xor_msb_iff {w : Nat} (hw : 0 < w) (a b : BitVec w) :
    (decide (a.toInt - b.toInt < -2 ^ (w - 1) ∨ 2 ^ (w - 1) ≤ a.toInt - b.toInt) ^^ (a - b).msb) = true ↔
      a.toInt < b.toInt := by
  have ha : a.toInt < 2 ^ (w - 1) := a.toInt_lt
  have hb : b.toInt < 2 ^ (w - 1) := b.toInt_lt
  have ha' : -2 ^ (w - 1) ≤ a.toInt := a.le_toInt
  have hb' : -2 ^ (w - 1) ≤ b.toInt := b.le_toInt
  have sign := bmod_neg_iff (h := 2 ^ (w - 1)) (d := a.toInt - b.toInt) (by push_cast; omega) (by push_cast; omega)
  have hpow : 2 ^ w = 2 * 2 ^ (w - 1) := by rw [Nat.mul_comm, Nat.two_pow_pred_mul_two hw]
  push_cast at sign
  rw [BitVec.msb_eq_toInt, BitVec.toInt_sub, hpow, bne_iff_ne, ne_eq, decide_eq_decide, sign]
  omega

/-- The difference of two operands as the comparison forms it (00_scope.md R29). -/
theorem ofInt_sub_toNat {w : Nat} (a b : BitVec w) : BitVec.ofInt w ((a.toNat : Int) - b.toNat) = a - b := by
  rw [Int.sub_eq_add_neg, BitVec.ofInt_add, BitVec.ofInt_neg]
  simp [BitVec.sub_eq_add_neg]

section
variable {w : Nat} {s t : State} {a b : BitVec w} (h : compared s t a b false false)
include h

theorem flagC_of_compared : flagC t.psw = true ↔ a.toNat < b.toNat := by
  obtain ⟨-, hc, -⟩ := h
  simp [hc]

theorem flagZ_of_compared : flagZ t.psw = true ↔ a = b := by
  obtain ⟨-, -, hz, -⟩ := h
  simp [hz, ofInt_sub_toNat, BitVec.sub_eq_iff_eq_add]

theorem flagOV_xor_flagS_of_compared (hw : 0 < w) :
    (flagOV t.psw ^^ flagS t.psw) = true ↔ a.toInt < b.toInt := by
  obtain ⟨-, -, -, hs, hov, -⟩ := h
  rw [hs, hov, ← overflow_xor_msb_iff hw, ← ofInt_sub_toNat]
  simp
end

/-! The branches -/

/-- An instruction that is a conditional branch is taken exactly on its condition (48_branch.md R440). -/
theorem branchesIf_of_branchIf {t : State} {i : Instr} {disp : Byte} {c : Bool} {taken : Prop}
    (hi : exec i t = .next (t.branchIf c disp)) (hc : c = true ↔ taken) : branchesIf t i disp taken := by
  refine ⟨_, hi, fun h => ?_, fun h => ?_⟩
  · rw [hc.2 h]
    rfl
  · rw [Bool.eq_false_iff.2 (mt hc.1 h)]
    rfl

/-- After a comparison the ten branches decide the order (48_branch.md R440). -/
theorem branchesByOrder_of_compared {w : Nat} (hw : 0 < w) {s t : State} {a b : BitVec w}
    (h : compared s t a b false false) (disp : Byte) : branchesByOrder t a b disp := by
  have hc := flagC_of_compared h
  have hlt := flagOV_xor_flagS_of_compared h hw
  have hz := flagZ_of_compared h
  have unsigned : flagZ t.psw = true ↔ a.toNat = b.toNat := hz.trans BitVec.toNat_inj.symm
  have signed : flagZ t.psw = true ↔ a.toInt = b.toInt := hz.trans BitVec.toInt_inj.symm
  refine ⟨branchesIf_of_branchIf rfl ?bge, branchesIf_of_branchIf rfl ?blt, branchesIf_of_branchIf rfl ?bgt,
    branchesIf_of_branchIf rfl ?ble, branchesIf_of_branchIf rfl ?bges, branchesIf_of_branchIf rfl ?blts,
    branchesIf_of_branchIf rfl ?bgts, branchesIf_of_branchIf rfl ?bles, branchesIf_of_branchIf rfl ?bne,
    branchesIf_of_branchIf rfl ?beq⟩
  case blt => exact hc
  case blts => exact hlt
  case beq => exact hz
  case bge | bgt | ble =>
    simp only [Bool.and_eq_true, Bool.or_eq_true, Bool.not_eq_true', ← Bool.not_eq_true, hc, unsigned]
    omega
  case bges | bgts | bles =>
    simp only [Bool.or_eq_true, Bool.not_eq_true', ← Bool.not_eq_true, hlt, signed]
    omega
  case bne => rw [Bool.not_eq_true', ← Bool.not_eq_true, hz]

/-- Settles O47: the three comparisons set the flags the ten branches test. -/
theorem compareThenBranchDecidesOrder : Obligations.CompareThenBranchDecidesOrder := by
  intro n m imm disp s
  refine ⟨⟨_, rfl, ?_⟩, ⟨_, rfl, ?_⟩, ⟨_, rfl, ?_⟩⟩
  · exact branchesByOrder_of_compared (by decide) (compared_bytes s (s.reg n) (s.reg m)) disp
  · exact branchesByOrder_of_compared (by decide) (compared_bytes s (s.reg n) imm) disp
  · exact branchesByOrder_of_compared (by decide) (compared_words s (s.er n) (s.er m)) disp

end Sys2Proof.Proofs.Arithmetic
end

section
/-! SUPPORT. A shift in the terms of Safety, and the arithmetic by powers of two that each shift amounts to: O15. -/
namespace Sys2Proof.Proofs.Shift
open Sys2Proof Sys2Proof.Machine

/-! The write of a shift -/

/-- A count of 0 ends the instruction alone, any other writes Rn and C (41_shift.md R240). -/
theorem shifted_shiftWrite (s : State) (n : Reg) (k : Nat) (v : Byte) (c : Bool) :
    shifted s (s.shiftWrite n k v c).done n k v c := by
  by_cases hk : k = 0
  · rw [State.shiftWrite, if_pos hk, shifted, if_pos hk]
    exact ⟨onlyRegs_finish rfl rfl (fun _ _ => rfl) rfl rfl, rfl, rfl⟩
  · rw [State.shiftWrite, if_neg hk, shifted, if_neg hk]
    exact ⟨onlyRegs_finish rfl rfl (fun x hx => by simp_all) rfl rfl, by simp, cFlag_putC s.psw c⟩

/-- The low three bits of a register as a count (41_shift.md R240). -/
theorem shiftSize_eq_mod (v : Byte) : shiftSize v = v.toNat % 8 := by
  simp [shiftSize, BitVec.extractLsb'_toNat]

/-! Shifts as multiplication and division by powers of two -/

theorem shiftLeft_eq_ofNat_mul {w : Nat} (v : BitVec w) (k : Nat) : v <<< k = BitVec.ofNat w (v.toNat * 2 ^ k) := by
  apply BitVec.eq_of_toNat_eq
  rw [BitVec.toNat_shiftLeft, Nat.shiftLeft_eq, BitVec.toNat_ofNat]

theorem ushiftRight_eq_ofNat_div {w : Nat} (v : BitVec w) (k : Nat) : v >>> k = BitVec.ofNat w (v.toNat / 2 ^ k) := by
  rw [← Nat.shiftRight_eq_div_pow, ← BitVec.toNat_ushiftRight, BitVec.ofNat_toNat, BitVec.setWidth_eq]

theorem sshiftRight_eq_ofInt_div {w : Nat} (v : BitVec w) (k : Nat) :
    v.sshiftRight k = BitVec.ofInt w (v.toInt / 2 ^ k) := by
  rw [BitVec.sshiftRight, Int.shiftRight_eq_div_pow]
  norm_cast

/-- A word put together from two bytes, as a number. -/
theorem toNat_append_bytes (hi lo : Byte) : (hi ++ lo : Word).toNat = hi.toNat * 256 + lo.toNat := by
  rw [BitVec.toNat_append, ← Nat.shiftLeft_add_eq_or_of_lt lo.isLt, Nat.shiftLeft_eq]

/-- The high byte of a word shifted left (41_shift.md R242). -/
theorem highByte_shiftLeft (v : Word) (k : Nat) :
    (v <<< k).extractLsb' 8 8 = BitVec.ofNat 8 (v.toNat * 2 ^ k / 256) := by
  apply BitVec.eq_of_toNat_eq
  rw [shiftLeft_eq_ofNat_mul, BitVec.extractLsb'_toNat, Nat.shiftRight_eq_div_pow, BitVec.toNat_ofNat,
    BitVec.toNat_ofNat]
  omega

/-- The low byte of a word shifted right (41_shift.md R248). -/
theorem lowByte_shiftRight (v : Word) (k : Nat) :
    (v >>> k).extractLsb' 0 8 = BitVec.ofNat 8 (v.toNat / 2 ^ k) := by
  apply BitVec.eq_of_toNat_eq
  rw [BitVec.extractLsb'_toNat, Nat.shiftRight_zero, BitVec.toNat_ushiftRight, Nat.shiftRight_eq_div_pow,
    BitVec.toNat_ofNat]

/-! The five shifts -/

theorem shifted_shiftSll (s : State) (n : Reg) (k : Nat) :
    shifted s (s.shiftSll n k).done n k (BitVec.ofNat 8 ((s.reg n).toNat * 2 ^ k)) ((s.reg n).getLsbD (8 - k)) := by
  rw [← shiftLeft_eq_ofNat_mul]
  exact shifted_shiftWrite s n k _ _

/-- `Rn:R[n-1]` moves left as one word (41_shift.md R242). -/
theorem shifted_shiftSllc (s : State) (n : Reg) (k : Nat) :
    shifted s (s.shiftSllc n k).done n k
      (BitVec.ofNat 8 (((s.reg n).toNat * 256 + (s.reg (n - 1)).toNat) * 2 ^ k / 256))
      (((s.reg n).toNat * 256 + (s.reg (n - 1)).toNat).testBit (16 - k)) := by
  rw [← toNat_append_bytes, ← highByte_shiftLeft, BitVec.testBit_toNat]
  exact shifted_shiftWrite s n k _ _

theorem shifted_shiftSra (s : State) (n : Reg) (k : Nat) :
    shifted s (s.shiftSra n k).done n k (BitVec.ofInt 8 ((s.reg n).toInt / 2 ^ k)) ((s.reg n).getLsbD (k - 1)) := by
  rw [← sshiftRight_eq_ofInt_div]
  exact shifted_shiftWrite s n k _ _

theorem shifted_shiftSrl (s : State) (n : Reg) (k : Nat) :
    shifted s (s.shiftSrl n k).done n k (BitVec.ofNat 8 ((s.reg n).toNat / 2 ^ k)) ((s.reg n).getLsbD (k - 1)) := by
  rw [← ushiftRight_eq_ofNat_div]
  exact shifted_shiftWrite s n k _ _

/-- `R[n+1]:Rn` moves right as one word; the last bit out is one of Rn, as the count is at most 7 (41_shift.md R248). -/
theorem shifted_shiftSrlc (s : State) (n : Reg) {k : Nat} (hk : k < 8) :
    shifted s (s.shiftSrlc n k).done n k
      (BitVec.ofNat 8 (((s.reg (n + 1)).toNat * 256 + (s.reg n).toNat) / 2 ^ k)) ((s.reg n).getLsbD (k - 1)) := by
  have carry : (s.reg (n + 1) ++ s.reg n : Word).getLsbD (k - 1) = (s.reg n).getLsbD (k - 1) := by
    rw [getLsbD_append_bytes, if_pos (by omega)]
  rw [← toNat_append_bytes, ← lowByte_shiftRight, ← carry]
  exact shifted_shiftWrite s n k _ _

/-- Settles O15: each of the five shifts by a register's count and by a width. -/
theorem shiftInstructions : Obligations.ShiftInstructions := by
  refine ⟨fun n m width s => ?left, fun n m width s => ?right⟩ <;> rw [← shiftSize_eq_mod]
  case left =>
    refine ⟨rfl, rfl, rfl, rfl, ⟨_, rfl, ?_⟩, ⟨_, rfl, ?_⟩, ⟨_, rfl, ?_⟩, ⟨_, rfl, ?_⟩⟩
    · exact shifted_shiftSll s n (shiftSize (s.reg m))
    · exact shifted_shiftSll s n width.toNat
    · exact shifted_shiftSllc s n (shiftSize (s.reg m))
    · exact shifted_shiftSllc s n width.toNat
  case right =>
    refine ⟨rfl, rfl, rfl, rfl, rfl, rfl, ⟨_, rfl, ?_⟩, ⟨_, rfl, ?_⟩, ⟨_, rfl, ?_⟩, ⟨_, rfl, ?_⟩, ⟨_, rfl, ?_⟩,
      ⟨_, rfl, ?_⟩⟩
    · exact shifted_shiftSra s n (shiftSize (s.reg m))
    · exact shifted_shiftSra s n width.toNat
    · exact shifted_shiftSrl s n (shiftSize (s.reg m))
    · exact shifted_shiftSrl s n width.toNat
    · exact shifted_shiftSrlc s n (BitVec.isLt _)
    · exact shifted_shiftSrlc s n width.isLt

end Sys2Proof.Proofs.Shift
end

section
/-! SUPPORT. Every load and every store form of the general registers where MEMMAP has memory, said once for each
list of forms: O17 to O22. -/
namespace Sys2Proof.Proofs.LoadStore
open Sys2Proof Sys2Proof.Machine
open Sys2Proof.Proofs.Scope (loadForms_exec storeForms_exec)

/-! Loads -/

/-- Where memory can be read at its offset, a form loads the register group at `R[n]` (42_load_store.md R263). -/
def Transfer.loads (s : State) (n : Reg) (x : Transfer) : Prop :=
  canLoad s x.off x.size → ∃ t, exec x.instr s = .next t ∧ loaded s t x.next x.off n x.size x.ea

/-- A load and the end of its form, where memory can be read. -/
theorem loaded_of_canLoad {s : State} {off : Word} {n : Reg} {k : Nat} (next ea : Word) (hk : k ≤ 8)
    (h : canLoad s off k) :
    ∃ t, (andThen (s.loadRegs off n k) fun t => .next ((t.setEa ea).finish next)) = .next t ∧
      loaded s t next off n k ea :=
  ⟨_, by rw [s.loadRegs_of_canLoad off n k h, andThen_next], loaded_finish s next off n k ea (by omega)⟩

theorem loadForms_load (s : State) (n m : Reg) (disp dadr : Word) (d6 : BitVec 6) :
    ∀ x ∈ loadForms s n m disp dadr d6, Transfer.loads s n x := by
  intro x hx h
  obtain ⟨hsize, hexec⟩ := loadForms_exec s n m disp dadr d6 x hx
  rw [hexec]
  exact loaded_of_canLoad x.next x.ea hsize h

/-- Settles O17: the byte forms are the first seven of the load forms. -/
theorem loadByteForms : Obligations.LoadByteForms := by
  intro n m disp dadr d6 s
  have forms := loadForms_load s n m disp dadr d6
  simp only [loadForms, List.forall_mem_cons] at forms
  obtain ⟨ea, eaInc, erm, disp16, bp, fp, direct, -⟩ := forms
  exact ⟨rfl, rfl, rfl, rfl, rfl, rfl, rfl, ea, eaInc, erm, disp16, bp, fp, direct⟩

/-- Settles O18: the word forms are the next seven of the load forms. -/
theorem loadWordForms : Obligations.LoadWordForms := by
  intro n m disp dadr d6 s
  have forms := loadForms_load s n m disp dadr d6
  simp only [loadForms, List.forall_mem_cons] at forms
  obtain ⟨-, -, -, -, -, -, -, ea, eaInc, erm, disp16, bp, fp, direct, -⟩ := forms
  exact ⟨rfl, rfl, rfl, rfl, rfl, rfl, rfl, ea, eaInc, erm, disp16, bp, fp, direct⟩

/-- Settles O19: the wide forms are the last four of the load forms; they have no operand but `n`. -/
theorem loadWideForms : Obligations.LoadWideForms := by
  intro n s
  have forms := loadForms_load s n 0 0 0 0
  simp only [loadForms, List.forall_mem_cons] at forms
  obtain ⟨-, -, -, -, -, -, -, -, -, -, -, -, -, -, xrEa, xrEaInc, qrEa, qrEaInc, -⟩ := forms
  exact ⟨rfl, rfl, rfl, rfl, xrEa, xrEaInc, qrEa, qrEaInc⟩

/-! Stores -/

/-- Where memory can be written at its offset, a form stores the register group at `R[n]` (42_load_store.md R301). -/
def Transfer.stores (s : State) (n : Reg) (x : Transfer) : Prop :=
  canStore s x.off x.size → ∃ t, exec x.instr s = .next t ∧ stored s t x.next x.off (s.regs n x.size) x.ea

/-- A store and the end of its form, where memory can be written. -/
theorem stored_of_canStore {s : State} {off : Word} {n : Reg} {k : Nat} (next ea : Word) (hm : s.mem.wf) (hk : k ≤ 8)
    (h : canStore s off k) :
    ∃ t, (andThen (s.storeRegs off n k) fun t => .next ((t.setEa ea).finish next)) = .next t ∧
      stored s t next off (s.regs n k) ea := by
  obtain ⟨t, ht, heq, hstored, -⟩ :=
    s.writeMem_of_writable s.dseg off (s.regs n k) hm (by rw [State.regs_length]; omega) (by rwa [State.regs_length])
  exact ⟨_, by rw [State.storeRegs, ht, andThen_next], stored_finish ea heq hstored⟩

theorem storeForms_store {s : State} (hm : s.mem.wf) (n m : Reg) (disp dadr : Word) (d6 : BitVec 6) :
    ∀ x ∈ storeForms s n m disp dadr d6, Transfer.stores s n x := by
  intro x hx h
  obtain ⟨hsize, hexec⟩ := storeForms_exec s n m disp dadr d6 x hx
  rw [hexec]
  exact stored_of_canStore x.next x.ea hm hsize h

/-- Settles O20: the byte forms are the first seven of the store forms. -/
theorem storeByteForms : Obligations.StoreByteForms := by
  intro n m disp dadr d6 s hm
  have forms := storeForms_store hm n m disp dadr d6
  simp only [storeForms, List.forall_mem_cons] at forms
  obtain ⟨ea, eaInc, erm, disp16, bp, fp, direct, -⟩ := forms
  exact ⟨rfl, rfl, rfl, rfl, rfl, rfl, rfl, ea, eaInc, erm, disp16, bp, fp, direct⟩

/-- Settles O21: the word forms are the next seven of the store forms. -/
theorem storeWordForms : Obligations.StoreWordForms := by
  intro n m disp dadr d6 s hm
  have forms := storeForms_store hm n m disp dadr d6
  simp only [storeForms, List.forall_mem_cons] at forms
  obtain ⟨-, -, -, -, -, -, -, ea, eaInc, erm, disp16, bp, fp, direct, -⟩ := forms
  exact ⟨rfl, rfl, rfl, rfl, rfl, rfl, rfl, ea, eaInc, erm, disp16, bp, fp, direct⟩

/-- Settles O22: the wide forms are the last four of the store forms; they have no operand but `n`. -/
theorem storeWideForms : Obligations.StoreWideForms := by
  intro n s hm
  have forms := storeForms_store hm n 0 0 0 0
  simp only [storeForms, List.forall_mem_cons] at forms
  obtain ⟨-, -, -, -, -, -, -, -, -, -, -, -, -, -, xrEa, xrEaInc, qrEa, qrEaInc, -⟩ := forms
  exact ⟨rfl, rfl, rfl, rfl, xrEa, xrEaInc, qrEa, qrEaInc⟩

end Sys2Proof.Proofs.LoadStore
end

section
/-! SUPPORT. The moves to and from the control registers, LEA, and MOV PSW in one equation: O24, O25 and O27. -/
namespace Sys2Proof.Proofs.ControlReg
open Sys2Proof Sys2Proof.Machine

/-! The updates, each ended as a one-word instruction -/

/-- An update of special registers alone, and the end of the instruction. -/
theorem onlySpecial_done {s u : State} {x : Special} (hpc : u.pc = s.pc) (he : u.eiWindow = s.eiWindow)
    (hm : u.mieWindow = s.mieWindow) (hr : ∀ n, u.reg n = s.reg n) (hmem : u.mem = s.mem) (hsp : u.special = x)
    (hp : u.psw = s.psw) : onlySpecial s u.done s.nextPc x := by
  have hnext : u.nextPc = s.nextPc := by rw [State.nextPc, hpc, State.nextPc]
  rw [State.done_eq, hnext]
  exact onlySpecial_finish he hm hr hmem hsp hp

theorem onlySpecial_setSp (s : State) (v : Word) :
    onlySpecial s (s.setSp v).done s.nextPc { s.special with sp := v } :=
  onlySpecial_done rfl rfl rfl (fun _ => rfl) rfl rfl rfl

theorem onlySpecial_setEa (s : State) (v off : Word) :
    onlySpecial s ((s.setEa v).finish off) off { s.special with ea := v } :=
  onlySpecial_finish rfl rfl (fun _ => rfl) rfl rfl rfl

theorem onlySpecial_setEcsr (s : State) (k : Level) (v : CodeSeg) :
    onlySpecial s (s.setEcsr k v).done s.nextPc (if s.isLarge then s.special.withEcsr k v else s.special) :=
  onlySpecial_done (s.setEcsr_pc k v) (s.setEcsr_eiWindow k v) (s.setEcsr_mieWindow k v) (s.setEcsr_reg k v)
    (s.setEcsr_mem k v) (s.setEcsr_special k v) (s.setEcsr_psw k v)

theorem onlySpecial_setElr (s : State) (k : Level) (v : Word) :
    onlySpecial s (s.setElr k v).done s.nextPc (s.special.withElr k (v &&& 0xFFFE#16)) :=
  onlySpecial_done (s.setElr_pc k v) (s.setElr_eiWindow k v) (s.setElr_mieWindow k v) (s.setElr_reg k v)
    (s.setElr_mem k v) (s.setElr_special k v) (s.setElr_psw k v)

theorem onlySpecial_setEpsw (s : State) (k : Level) (v : Byte) :
    onlySpecial s (s.setEpsw k v).done s.nextPc (s.special.withEpsw k v) :=
  onlySpecial_done (s.setEpsw_pc k v) (s.setEpsw_eiWindow k v) (s.setEpsw_mieWindow k v) (s.setEpsw_reg k v)
    (s.setEpsw_mem k v) (s.setEpsw_special k v) (s.setEpsw_psw k v)

/-- A write of Rn that sets no flag. -/
theorem movedByte_setReg (s : State) (n : Reg) (v : Byte) :
    onlyRegs s (s.setReg n v).done s.nextPc [n] ∧ (s.setReg n v).done.reg n = v ∧ (s.setReg n v).done.psw = s.psw :=
  ⟨onlyRegs_finish rfl rfl (fun x hx => by simp_all) rfl rfl, by simp, rfl⟩

/-- A write of ERn that sets no flag. -/
theorem movedWord_setEr (s : State) (n : Reg) (v : Word) :
    onlyRegs s (s.setEr n v).done s.nextPc [n, n + 1] ∧ (s.setEr n v).done.er n = v ∧
      (s.setEr n v).done.psw = s.psw :=
  ⟨onlyRegs_finish rfl rfl (fun x hx => by simp_all) rfl rfl, s.er_setEr n v, rfl⟩

/-! The pointers -/

/-- Settles O24: SP, EA or the destination register receives its value, and the instruction ends. -/
theorem pointerMovesAndLea : Obligations.PointerMovesAndLea := by
  refine ⟨fun n m imm s => ⟨rfl, rfl, rfl, rfl, ⟨_, rfl, ?addSp⟩, ⟨_, rfl, ?movErnSp⟩, ⟨_, rfl, ?movSpErm⟩,
    ⟨_, rfl, ?movRnPsw⟩⟩, fun m disp dadr s => ⟨rfl, rfl, rfl, ⟨_, rfl, ?leaErm⟩, ⟨_, rfl, ?leaDisp16⟩,
    ⟨_, rfl, ?leaDadr⟩⟩⟩
  case addSp => exact onlySpecial_setSp s (s.sp + imm.signExtend 16)
  case movErnSp => exact movedWord_setEr s n s.sp
  case movSpErm => exact onlySpecial_setSp s (s.er m)
  case movRnPsw => exact movedByte_setReg s n s.psw
  case leaErm => exact onlySpecial_setEa s (s.er m) s.nextPc
  case leaDisp16 => exact onlySpecial_setEa s (s.er m + disp) s.nextPc2
  case leaDadr => exact onlySpecial_setEa s dadr s.nextPc2

/-! The backup registers -/

theorem useLevel_of_levelView_none {s : State} (h : s.levelView = none) : s.useLevel = elevelOf s.psw := by
  rw [State.useLevel, h, Option.getD_none, State.elevel]

/-- What needs the registers of a level that is present goes on from the same state (10_state.md R67). -/
theorem needLevel_present {α : Type} {s : State} {k : Level} (h : s.levelPresent k = true) (f : State → Res α) :
    andThen (s.needLevel k) f = f s := by
  rw [State.needLevel, if_pos h, andThen_next]

/-- MOV Rn,EPSW writes Rn but at level 0, where it ends alone (43_control_register.md R329). -/
theorem movedByte_execMovRnEpsw {s : State} (n : Reg) (h : s.levelPresent s.useLevel = true) :
    ∃ t, execMovRnEpsw n s = .next t ∧
      onlyRegs s t s.nextPc [n] ∧ t.reg n = (s.epsw s.useLevel).getD (s.reg n) ∧ t.psw = s.psw := by
  rw [execMovRnEpsw, needLevel_present h]
  cases s.epsw s.useLevel with
  | none => exact ⟨_, rfl, onlyRegs_finish rfl rfl (fun _ _ => rfl) rfl rfl, rfl, rfl⟩
  | some p => exact ⟨_, rfl, movedByte_setReg s n p⟩

/-- Settles O25: where the level is present, each move is one write of, or one read from, a register of that level. -/
theorem backupRegisterMoves : Obligations.BackupRegisterMoves := by
  refine fun n m s => ⟨useLevel_of_levelView_none, fun h => ⟨⟨_, needLevel_present h _, ?toEcsr⟩,
    ⟨_, needLevel_present h _, ?toElr⟩, ⟨_, needLevel_present h _, ?toEpsw⟩, ⟨_, needLevel_present h _, ?fromElr⟩,
    ⟨_, needLevel_present h _, ?fromEcsr⟩, ?fromEpsw⟩⟩
  case toEcsr => exact onlySpecial_setEcsr s s.useLevel ((s.reg m).extractLsb' 0 4)
  case toElr => exact onlySpecial_setElr s s.useLevel (s.er m)
  case toEpsw => exact onlySpecial_setEpsw s s.useLevel (s.reg m)
  case fromElr => exact movedWord_setEr s n (s.elr s.useLevel)
  case fromEcsr => exact movedByte_setReg s n ((s.ecsr s.useLevel).zeroExtend 8)
  case fromEpsw => exact movedByte_execMovRnEpsw n h

/-! MOV PSW -/

/-- MOV PSW is the write of PSW and the end of the instruction, but for the window of R577 and the level drawn by R578
(70_reset_and_hazards.md; logs 12, 13). -/
theorem movPsw_eq (s : State) (v : Byte) :
    s.movPsw v = { (s.setPsw v).done with
      mieWindow := if flagMIE s.psw = true ∧ flagMIE v = false then 2 else s.mieWindow - 1
      draws := s.draws + if elevelOf v = elevelOf s.psw then 0 else 1
      levelView :=
        if elevelOf v = elevelOf s.psw then none
        else some (if Config.freeBit s.draws then elevelOf s.psw else elevelOf v) } := by
  have hmie : (flagMIE s.psw && !flagMIE v) = true ↔ flagMIE s.psw = true ∧ flagMIE v = false := by simp
  simp only [State.movPsw, State.elevel, hmie]
  split_ifs <;> rfl

/-- MOV PSW of the value `v` took `s` to `t` (43_control_register.md R326, R327, 70_reset_and_hazards.md R577, R578):
beside PSW and the end of the instruction only the window of R577, the level drawn by R578 and the count of drawn values
differ. -/
def movedPsw (s t : State) (v : Byte) : Prop :=
  t.psw = v ∧ goesOn t s.nextPc ∧ sameRegsBut s t [] ∧ sameMemBut s t [] ∧
    t.special = { s.special with draws := s.draws + if elevelOf v = elevelOf s.psw then 0 else 1 } ∧
    t.eiWindow = s.eiWindow - 1 ∧
    t.mieWindow = (if flagMIE s.psw = true ∧ flagMIE v = false then 2 else s.mieWindow - 1) ∧
    (elevelOf v = elevelOf s.psw → t.levelView = none) ∧
    (elevelOf v ≠ elevelOf s.psw → t.levelView = some (elevelOf s.psw) ∨ t.levelView = some (elevelOf v))

theorem movedPsw_movPsw (s : State) (v : Byte) : movedPsw s (s.movPsw v) v := by
  rw [movPsw_eq]
  refine ⟨rfl, ⟨rfl, rfl, rfl, rfl⟩, fun _ _ => rfl, fun _ _ => rfl, rfl, rfl, rfl, fun same => if_pos same,
    fun changed => ?_⟩
  rw [if_neg changed]
  cases Config.freeBit s.draws with
  | true => exact .inl rfl
  | false => exact .inr rfl

/-- Settles O27: both forms are MOV PSW, of a register's value and of the immediate. -/
theorem movPswEffect : Obligations.MovPswEffect := by
  intro m imm s
  simp only [List.forall_mem_cons, List.not_mem_nil, false_implies, implies_true, and_true]
  exact ⟨⟨_, rfl, movedPsw_movPsw s (s.reg m)⟩, ⟨_, rfl, movedPsw_movPsw s imm⟩⟩

end Sys2Proof.Proofs.ControlReg
end

section
/-! SUPPORT. PUSH and POP on a stack that is memory, each by the frame it pushes or the bytes it reads: O28 to O31. -/
namespace Sys2Proof.Proofs.PushPop
open Sys2Proof Sys2Proof.Machine
open Sys2Proof.Proofs.Scope

/-! PUSH -/

theorem pushForms_push {s : State} (n : Reg) (hm : s.mem.wf) :
    ∀ x ∈ pushForms s n, writable s 0 (s.sp - BitVec.ofNat 16 x.2.length) x.2.length →
      ∃ t, exec x.1 s = .next t ∧ pushed s t x.2 := by
  intro x hx h
  obtain ⟨hne, hlen, hexec⟩ := pushForms_exec s n x hx
  obtain ⟨t, ht, hpushed, -⟩ := pushed_of_items s x.2 hm (by omega) hne h
  exact ⟨t, hexec.trans ht, hpushed⟩

/-- Settles O28: the four PUSH of general registers are the push forms. -/
theorem pushRegisters : Obligations.PushRegisters := by
  intro n s hm
  have forms := pushForms_push n hm
  simp only [pushForms, List.forall_mem_cons] at forms
  obtain ⟨rn, ern, xrn, qrn, -⟩ := forms
  exact ⟨fun h => ⟨rn h, ern h⟩, xrn, qrn⟩

/-- Settles O29: PUSH register_list is the pushes of its frame, which is short and not empty. -/
theorem pushRegisterLists : Obligations.PushRegisterLists := by
  intro s hm p hp hlevel h
  obtain ⟨hlen, hne⟩ := pushFrame_length s p.1
  have hnil : pushFrame s p.1 ≠ [] := List.ne_nil_of_length_pos (Nat.pos_of_ne_zero (hne (pushLists_ne_zero p hp)))
  obtain ⟨t, ht, hpushed, -⟩ := pushed_of_items s (pushFrame s p.1) hm (by omega) hnil h
  exact ⟨t, by rw [pushLists_exec s p hp, pushList_eq hlevel, ht], hpushed⟩

/-! POP -/

/-- Memory that can be read from SP upwards, byte by byte (20_memory.md R114). -/
theorem readable_stack_iff {s : State} {k : Nat} :
    readable s 0 s.sp k ↔ ∀ i < k, canRead s.dev (dataKey s.dev 0 (s.sp + BitVec.ofNat 16 i)) = true := by
  simp [readable, keysOf]

theorem bytesAt_stack (s : State) (k : Nat) : bytesAt s 0 s.sp k = (List.range k).map (stackByte s) := by
  simp [bytesAt, keysOf, stackByte, Function.comp_def]

/-- POP of a group of `k` registers that fills its frame (44_push_pop.md R346 to R348). -/
theorem popped_popAll {s : State} (n : Reg) {k : Nat} (hk : k ≤ 16) (hpos : 0 < k) (h : readable s 0 s.sp k) :
    ∃ t, (andThen (s.popAll k) fun p => .next (p.2.setRegs n p.1).done) = .next t ∧ popped s t n k k := by
  have hall : s.popAll k = .next (bytesAt s 0 s.sp k, poppedUp s k k s.draws) := by
    rw [popAll_at (s := s) k rfl rfl (i := 0) (by simp) (by simpa using readable_stack_iff.1 h), bytesAt_stack,
      if_neg (Nat.ne_of_gt hpos)]
    simp [poppedUp]
  refine ⟨_, andThen_of hall _, ?_⟩
  have hnext : ((poppedUp s k k s.draws).setRegs n (bytesAt s 0 s.sp k)).nextPc = s.nextPc := by
    simp [State.nextPc, poppedUp]
  rw [State.done, hnext]
  exact popped_finish s n k k hk

/-- POP Rn reads the lower byte of its frame of two and skips the other one (44_push_pop.md R345, R353). -/
theorem popped_popRn {s : State} (n : Reg) (h : readable s 0 s.sp 1) :
    ∃ t, exec (.popRn n) s = .next t ∧ popped s t n 1 2 := by
  have hpop := pop8_at (s := s) (u := s) (i := 0) rfl rfl (by simp) (readable_stack_iff.1 h 0 (by omega))
  have hskip : (popStep s s 0 s.draws).skip8 = poppedUp s 1 2 s.draws := by
    simp only [popStep, State.skip8, State.setSp, poppedUp, BitVec.add_assoc]
    rfl
  have hexec : exec (.popRn n) s =
      .next ((poppedUp s 1 2 s.draws).setRegs n (bytesAt s 0 s.sp 1)).done := by
    rw [← hskip, bytesAt_stack]
    exact andThen_of hpop _
  exact ⟨_, hexec, popped_finish s n 1 2 (by omega)⟩

theorem popForms_pop {s : State} (n : Reg) :
    ∀ x ∈ popForms n, readable s 0 s.sp x.2.1 → ∃ t, exec x.1 s = .next t ∧ popped s t n x.2.1 x.2.2 := by
  simp only [popForms, List.forall_mem_cons, List.not_mem_nil, false_implies, implies_true, and_true]
  exact ⟨popped_popRn n, popped_popAll n (by omega) (by omega), popped_popAll n (by omega) (by omega),
    popped_popAll n (by omega) (by omega)⟩

/-- Settles O30: the four POP of general registers are the pop forms. -/
theorem popRegisters : Obligations.PopRegisters := by
  intro n s
  have forms := popForms_pop (s := s) n
  simp only [popForms, List.forall_mem_cons] at forms
  obtain ⟨rn, ern, xrn, qrn, -⟩ := forms
  exact ⟨rfl, rfl, rfl, rfl, rn, ern, xrn, qrn⟩

/-- Settles O31: on a stack that is memory each pop finds the stack byte of the state itself and draws nothing. -/
theorem popRegisterLists : Obligations.PopRegisterLists := by
  intro s p hp h
  obtain ⟨-, -, -, hreads, -⟩ := popReads_layout s p.1
  have hpops : popList p.1 s = .next (poppedState s s p.1 s.draws) :=
    popList_as (d := fun _ => s.draws) rfl (fun j hj => popsAs_of_canRead s.draws (h j hj))
      ⟨fun _ _ => rfl, fun _ => rfl, fun _ _ => rfl⟩
  exact ⟨_, (popLists_exec s p hp).trans hpops,
    poppedList_asSeen (m := s.mem) s.draws (hreads (popLists_ne_zero p hp))⟩

end Sys2Proof.Proofs.PushPop
end

section
/-! SUPPORT. POP of the items that PUSH has put on a stack of memory, and the return through the stack: O32 and O33. -/
namespace Sys2Proof.Proofs.PushPop
open Sys2Proof Sys2Proof.Machine
open Sys2Proof.Proofs.Scope
open Sys2Proof.Proofs.ControlReg (needLevel_present)

/-! The stack after a PUSH -/

/-- The upper part of a range of writable memory below SP is writable. -/
theorem writable_below {s : State} {k j : Nat} (hjk : j ≤ k) (h : writable s 0 (s.sp - BitVec.ofNat 16 k) k) :
    writable s 0 (s.sp - BitVec.ofNat 16 j) j := by
  intro i hi
  have hoff : s.sp - BitVec.ofNat 16 k + BitVec.ofNat 16 (k - j + i) =
      s.sp - BitVec.ofNat 16 j + BitVec.ofNat 16 i := by
    obtain ⟨d, rfl⟩ := Nat.exists_eq_add_of_le hjk
    rw [Nat.add_sub_cancel_left, BitVec.ofNat_add, BitVec.ofNat_add]
    bv_omega
  rw [← hoff]
  exact h (k - j + i) (by omega)

section
variable {s t : State} {frame : List (Option Byte)} (h : pushed s t frame)
include h

theorem pushed_sp : t.sp = s.sp - BitVec.ofNat 16 frame.length := by
  obtain ⟨-, -, -, -, -, hspecial⟩ := h
  exact congrArg Special.sp hspecial

/-- A PUSH leaves every special register but SP and AR, and the device, as they were. -/
theorem pushed_keeps :
    t.dev = s.dev ∧ t.ea = s.ea ∧ t.lr = s.lr ∧ t.lcsr = s.lcsr ∧ t.csr = s.csr := by
  obtain ⟨-, -, -, -, -, hspecial⟩ := h
  exact ⟨congrArg Special.dev hspecial, congrArg Special.ea hspecial, congrArg Special.lr hspecial,
    congrArg Special.lcsr hspecial, congrArg Special.csr hspecial⟩

/-- The bytes of a frame that was pushed on writable memory can be read. -/
theorem pushed_canRead (hw : writable s 0 (s.sp - BitVec.ofNat 16 frame.length) frame.length) {i : Nat}
    (hi : i < frame.length) : canRead t.dev (dataKey t.dev 0 (t.sp + BitVec.ofNat 16 i)) = true := by
  obtain ⟨hdev, -⟩ := pushed_keeps h
  rw [hdev, pushed_sp h]
  refine readable_of_writable hw _ ?_
  simp only [keysOf, List.mem_map, List.mem_range]
  exact ⟨i, hi, rfl⟩

end

/-! General registers -/

/-- What a PUSH followed by the matching POP of general registers, EA or LR leaves as it was (44_push_pop.md R355). -/
def restored (s u : State) : Prop :=
  u.sp = s.sp ∧ u.psw = s.psw ∧ sameRegsBut s u [] ∧ u.ea = s.ea ∧ u.lr = s.lr ∧ u.lcsr = s.lcsr

/-- Each register of a group by its place in the group. -/
theorem reg_of_regs {t u : State} {n : Reg} {k : Nat} (h : u.regs n k = bytesAt t 0 t.sp k) {i : Nat} (hi : i < k) :
    u.reg (n + BitVec.ofNat 4 i) = stackByte t i := by
  rw [bytesAt_stack, State.regs] at h
  exact List.map_inj_left.1 h i (List.mem_range.2 hi)

/-- A POP of the `k` registers at `R[n]` from a frame that holds them restores them. -/
theorem restored_of_popped {s t u : State} {n : Reg} {k : Nat} {frame : List (Option Byte)} (hpush : pushed s t frame)
    (hpop : popped t u n k frame.length)
    (hheld : ∀ i < k, frame[i]? = some (some (s.reg (n + BitVec.ofNat 4 i)))) : restored s u := by
  have hsp := pushed_sp hpush
  obtain ⟨-, hea, hlr, hlcsr, -⟩ := pushed_keeps hpush
  obtain ⟨-, hbytes, -, hpsw, hregs, -⟩ := hpush
  obtain ⟨-, hgroup, hothers, -, hpsw', hspecial⟩ := hpop
  refine ⟨?_, hpsw'.trans hpsw, fun x _ => ?_, (congrArg Special.ea hspecial).trans hea,
    (congrArg Special.lr hspecial).trans hlr, (congrArg Special.lcsr hspecial).trans hlcsr⟩
  · have hup : u.sp = t.sp + BitVec.ofNat 16 frame.length := congrArg Special.sp hspecial
    rw [hup, hsp, BitVec.sub_add_cancel]
  · by_cases hx : x ∈ groupOf n k
    · simp only [groupOf, List.mem_map, List.mem_range] at hx
      obtain ⟨i, hi, rfl⟩ := hx
      rw [reg_of_regs hgroup hi, hbytes i _ (hheld i hi)]
    · rw [hothers x hx, hregs x List.not_mem_nil]

/-- PUSH and POP of one group, which stands in the lower bytes of its frame. -/
theorem pushForms_then_popForms {s : State} (n : Reg) (hm : s.mem.wf) {push pop : Instr} {frame : List (Option Byte)}
    {k : Nat} (hpush : (push, frame) ∈ pushForms s n) (hpop : (pop, k, frame.length) ∈ popForms n)
    (hheld : ∀ i < k, frame[i]? = some (some (s.reg (n + BitVec.ofNat 4 i))))
    (hw : writable s 0 (s.sp - BitVec.ofNat 16 frame.length) frame.length) :
    ∃ t u, exec push s = .next t ∧ exec pop t = .next u ∧ restored s u := by
  obtain ⟨t, ht, hpushed⟩ := pushForms_push n hm _ hpush hw
  have hread : readable t 0 t.sp k := readable_stack_iff.2 fun i hi =>
    pushed_canRead hpushed hw (List.getElem?_eq_some_iff.1 (hheld i hi)).1
  obtain ⟨u, hu, hpopped⟩ := popForms_pop n _ hpop hread
  exact ⟨t, u, ht, hu, restored_of_popped hpushed hpopped hheld⟩

/-- Each PUSH of general registers with the POP of the same group. -/
def groupPairs (n : Reg) : List (Instr × Instr) :=
  [(.pushRn n, .popRn n), (.pushErn n, .popErn n), (.pushXrn n, .popXrn n), (.pushQrn n, .popQrn n)]

/-- PUSH Rn holds its register in the lower byte of its frame, the other forms fill theirs (44_push_pop.md R340 to
R343). -/
theorem groupPairs_restored {s : State} (n : Reg) (hm : s.mem.wf) (hw : writable s 0 (s.sp - 8) 8) :
    ∀ p ∈ groupPairs n, ∃ t u, exec p.1 s = .next t ∧ exec p.2 t = .next u ∧ restored s u := by
  have pair {push pop : Instr} {frame : List (Option Byte)} {k : Nat} (hpush : (push, frame) ∈ pushForms s n)
      (hpop : (pop, k, frame.length) ∈ popForms n)
      (hheld : ∀ i < k, frame[i]? = some (some (s.reg (n + BitVec.ofNat 4 i)))) (hlen : frame.length ≤ 8) :=
    pushForms_then_popForms n hm hpush hpop hheld (writable_below hlen hw)
  have single : ∀ i < 1, [some (s.reg n), none][i]? = some (some (s.reg (n + BitVec.ofNat 4 i))) := by
    intro i hi
    obtain rfl : i = 0 := by omega
    simp
  have filled (k : Nat) : ∀ i < k, ((s.regs n k).map some)[i]? = some (some (s.reg (n + BitVec.ofNat 4 i))) :=
    fun i hi => by simp [State.regs, List.getElem?_range hi]
  simp only [groupPairs, List.forall_mem_cons, List.not_mem_nil, false_implies, implies_true, and_true]
  exact ⟨pair (by simp [pushForms]) (by simp [popForms]) single (by simp),
    pair (by simp [pushForms]) (by simp [popForms]) (filled 2) (by simp),
    pair (by simp [pushForms]) (by simp [popForms]) (filled 4) (by simp),
    pair (by simp [pushForms]) (by simp [popForms]) (filled 8) (by simp)⟩

/-! Register lists -/

/-- The stack of `t` holds the bytes of a frame from `i` bytes above SP upwards; of a free byte nothing is said. -/
def StackHolds (t : State) (i : Nat) (frame : List (Option Byte)) : Prop :=
  ∀ j b, frame[j]? = some (some b) → stackByte t (i + j) = b

theorem stackHolds_append {t : State} {i : Nat} {xs ys : List (Option Byte)} (h : StackHolds t i (xs ++ ys)) :
    StackHolds t i xs ∧ StackHolds t (i + xs.length) ys := by
  refine ⟨fun j b hj => h j b ?_, fun j b hj => ?_⟩
  · rw [List.getElem?_append_left (List.getElem?_eq_some_iff.1 hj).1, hj]
  · rw [Nat.add_assoc]
    refine h (xs.length + j) b ?_
    rw [List.getElem?_append_right (Nat.le_add_right _ _), Nat.add_sub_cancel_left, hj]

theorem stackWord_of_holds {t : State} {i : Nat} {v : Word} {rest : List (Option Byte)}
    (h : StackHolds t i (some (v.extractLsb' 0 8) :: some (v.extractLsb' 8 8) :: rest)) : stackWord t i = v := by
  have hlow : stackByte t i = v.extractLsb' 0 8 := h 0 _ rfl
  have hhigh : stackByte t (i + 1) = v.extractLsb' 8 8 := h 1 _ rfl
  rw [stackWord, hlow, hhigh, append_bytes_of_word]

theorem lowNibble_zeroExtend (seg : CodeSeg) : (seg.zeroExtend 8).extractLsb' 0 4 = seg := by
  apply BitVec.eq_of_getLsbD_eq
  intro i hi
  have hi8 : i < 8 := by omega
  simp [hi, hi8]

/-- A return-address frame read back (44_push_pop.md R352). -/
theorem returnFrame_held {s t : State} {i : Nat} {seg : CodeSeg} {off : Word}
    (h : StackHolds t i (returnFrame s seg off)) :
    stackWord t i = off ∧ (s.isLarge = true → (stackByte t (i + 2)).extractLsb' 0 4 = seg) := by
  unfold returnFrame at h
  cases hl : s.isLarge with
  | false =>
    rw [hl] at h
    exact ⟨stackWord_of_holds h, nofun⟩
  | true =>
    rw [hl] at h
    have hseg : stackByte t (i + 2) = seg.zeroExtend 8 := h 2 _ rfl
    exact ⟨stackWord_of_holds h, fun _ => by rw [hseg, lowNibble_zeroExtend]⟩

theorem returnFrame_length (s : State) (seg : CodeSeg) (off : Word) :
    (returnFrame s seg off).length = returnSize s := by
  unfold returnFrame returnSize
  split
  · rfl
  · rfl

theorem isLarge_of_dev {s t : State} (h : t.dev = s.dev) : t.isLarge = s.isLarge := by
  rw [State.isLarge, h, State.isLarge]

theorem popOffsets_of_dev {s t : State} (h : t.dev = s.dev) (lepa : BitVec 4) :
    popOffsets t lepa = popOffsets s lepa := by
  simp only [popOffsets, returnSize, isLarge_of_dev h]

/-- A frame of PUSH is as long as the frame that POP of the same list leaves (44_push_pop.md R344, R349). -/
theorem pushFrame_length_eq (s : State) (lepa : BitVec 4) : (pushFrame s lepa).length = (popOffsets s lepa).2.2.2 := by
  simp only [pushFrame, popOffsets, List.length_append, apply_ite List.length, List.length_cons, List.length_nil,
    returnFrame_length]

/-- The items of a PUSH frame stand where POP of the same list looks for its own (44_push_pop.md R344, R349). -/
theorem pushFrame_held {s t : State} {lepa : BitVec 4} (h : StackHolds t 0 (pushFrame s lepa)) :
    (lepa.getLsbD 0 = true → stackWord t 0 = s.ea) ∧
      (lepa.getLsbD 3 = true → stackWord t (popOffsets s lepa).1 = s.lr ∧
        (s.isLarge = true → (stackByte t ((popOffsets s lepa).1 + 2)).extractLsb' 0 4 = s.segRead s.lcsr)) ∧
      (lepa.getLsbD 2 = true → ∀ p, s.epsw s.useLevel = some p → stackByte t (popOffsets s lepa).2.1 = p) ∧
      (lepa.getLsbD 1 = true → stackWord t (popOffsets s lepa).2.2.1 = s.elr s.useLevel ∧
        (s.isLarge = true →
          (stackByte t ((popOffsets s lepa).2.2.1 + 2)).extractLsb' 0 4 = s.ecsr s.useLevel)) := by
  obtain ⟨h, helr⟩ := stackHolds_append h
  obtain ⟨h, hepsw⟩ := stackHolds_append h
  obtain ⟨hea, hlr⟩ := stackHolds_append h
  simp only [List.length_append, apply_ite List.length, List.length_cons, List.length_nil, returnFrame_length,
    Nat.zero_add] at hlr hepsw helr
  refine ⟨fun hb => ?_, fun hb => ?_, fun hb p hp => ?_, fun hb => ?_⟩
  · rw [if_pos hb] at hea
    exact stackWord_of_holds hea
  · rw [if_pos hb] at hlr
    exact returnFrame_held hlr
  · rw [if_pos hb, hp] at hepsw
    exact hepsw 0 p rfl
  · rw [if_pos hb] at helr
    exact returnFrame_held helr

/-- What POP of a list makes of the state from which PUSH of the same list began: EPSW has gone to PSW, ELR and ECSR to
PC and CSR, as far as they are named; EA and LR with LCSR are back. -/
structure Reloaded (s u : State) (lepa : BitVec 4) : Prop where
  sp : u.sp = s.sp
  regs : sameRegsBut s u []
  ea : u.ea = s.ea
  lr : u.lr = if lepa.getLsbD 3 then s.lr &&& 0xFFFE#16 else s.lr
  lcsr : u.lcsr = s.lcsr
  psw : lepa.getLsbD 2 = false → u.psw = s.psw
  epsw : lepa.getLsbD 2 = true → ∀ p, s.epsw s.useLevel = some p → u.psw = p
  pc : lepa.getLsbD 1 = true → u.pc = s.elr s.useLevel &&& 0xFFFE#16
  csr : lepa.getLsbD 1 = true → u.csr = s.segWrite s.csr (s.ecsr s.useLevel)

theorem reloaded_of_poppedList {s t u : State} {lepa : BitVec 4} (hpush : pushed s t (pushFrame s lepa))
    (hpop : poppedList t u lepa) : Reloaded s u lepa := by
  have hsp := pushed_sp hpush
  obtain ⟨hdev, hea, hlr, hlcsr, hcsr⟩ := pushed_keeps hpush
  obtain ⟨-, hbytes, -, hpsw, hregs, -⟩ := hpush
  have hlarge := isLarge_of_dev hdev
  have hat := popOffsets_of_dev hdev lepa
  obtain ⟨heldEa, heldLr, heldEpsw, heldElr⟩ := pushFrame_held (t := t) (lepa := lepa)
    fun i b hi => by rw [Nat.zero_add]; exact hbytes i b hi
  obtain ⟨⟨⟨hpc, -⟩, -⟩, huPsw, huRegs, -, hspecial⟩ := hpop
  rw [hat] at hpc huPsw hspecial
  rw [hlarge] at hspecial
  have huSp : u.sp = t.sp + BitVec.ofNat 16 (popOffsets s lepa).2.2.2 := congrArg Special.sp hspecial
  have huEa : u.ea = if lepa.getLsbD 0 then stackWord t 0 else t.ea := congrArg Special.ea hspecial
  have huLr : u.lr = if lepa.getLsbD 3 then stackWord t (popOffsets s lepa).1 &&& 0xFFFE#16 else t.lr :=
    congrArg Special.lr hspecial
  have huLcsr : u.lcsr = if lepa.getLsbD 3 && s.isLarge then (stackByte t ((popOffsets s lepa).1 + 2)).extractLsb' 0 4
      else t.lcsr := congrArg Special.lcsr hspecial
  have huCsr : u.csr = if lepa.getLsbD 1 && s.isLarge then
      (stackByte t ((popOffsets s lepa).2.2.1 + 2)).extractLsb' 0 4 else t.csr := congrArg Special.csr hspecial
  refine ⟨?sp, ?regs, ?ea, ?lr, ?lcsr, ?psw, ?epsw, ?pc, ?csr⟩
  case sp => rw [huSp, ← pushFrame_length_eq, hsp, BitVec.sub_add_cancel]
  case regs => exact fun x hx => (huRegs x hx).trans (hregs x hx)
  case ea =>
    rw [huEa, hea]
    exact ite_eq_right_iff.2 heldEa
  case lr =>
    rw [huLr, hlr]
    exact ite_congr rfl (fun hb => by rw [(heldLr hb).1]) fun _ => rfl
  case lcsr =>
    rw [huLcsr, hlcsr]
    refine ite_eq_right_iff.2 fun hb => ?_
    obtain ⟨hnamed, hl⟩ := Bool.and_eq_true_iff.1 hb
    rw [(heldLr hnamed).2 hl, State.segRead, if_pos hl]
  case psw => exact fun hb => by rw [huPsw, hb]; exact hpsw
  case epsw => exact fun hb p hp => by rw [huPsw, if_pos hb, heldEpsw hb p hp]
  case pc => exact fun hb => by rw [hpc, if_pos hb, (heldElr hb).1]
  case csr =>
    intro hb
    rw [huCsr, hcsr, hb, Bool.true_and, State.segWrite]
    exact ite_congr rfl (heldElr hb).2 fun _ => rfl

/-- PUSH of a list and then POP of the same one. -/
theorem pushLists_then_popLists {s : State} (hm : s.mem.wf) {lepa : BitVec 4} {push pop : Instr}
    (hpush : (lepa, push) ∈ pushLists) (hpop : (lepa, pop) ∈ popLists)
    (hlevel : lepa.getLsbD 1 = true ∨ lepa.getLsbD 2 = true → s.levelPresent s.useLevel = true)
    (hw : writable s 0 (s.sp - BitVec.ofNat 16 (pushFrame s lepa).length) (pushFrame s lepa).length) :
    ∃ t u, exec push s = .next t ∧ exec pop t = .next u ∧ Reloaded s u lepa := by
  obtain ⟨t, ht, hpushed⟩ := pushRegisterLists s hm _ hpush hlevel hw
  have hlen : (pushFrame s lepa).length = (popOffsets t lepa).2.2.2 := by
    obtain ⟨hdev, -⟩ := pushed_keeps hpushed
    rw [pushFrame_length_eq, popOffsets_of_dev hdev]
  obtain ⟨-, hinside, -⟩ := popReads_layout t lepa
  obtain ⟨u, hu, hpopped⟩ := popRegisterLists t _ hpop fun i hi =>
    pushed_canRead hpushed hw (by rw [hlen]; exact hinside i hi)
  exact ⟨t, u, ht, hu, reloaded_of_poppedList hpushed hpopped⟩

/-- The frames of EA, EPSW, ELR with EPSW, and LR. -/
theorem pushFrame_length_le_eight (s : State) :
    ∀ lepa ∈ [0x1#4, 0x4#4, 0x6#4, 0x8#4], (pushFrame s lepa).length ≤ 8 := by
  simp only [pushFrame_length_eq, popOffsets, returnSize]
  cases s.isLarge
  · decide
  · decide

/-- Where a list does not name PSW, POP restores what POP of a group does. -/
theorem restored_of_reloaded {s u : State} {lepa : BitVec 4} (hlr : s.lr &&& 0xFFFE#16 = s.lr)
    (hpsw : lepa.getLsbD 2 = false) (h : Reloaded s u lepa) : restored s u :=
  ⟨h.sp, h.psw hpsw, h.regs, h.ea, by rw [h.lr, hlr, ite_self], h.lcsr⟩

/-- PUSH of a list with a short frame and then POP of the same one, where eight bytes below SP are writable. -/
theorem shortLists_then_popLists {s : State} (hm : s.mem.wf) (hw : writable s 0 (s.sp - 8) 8) {lepa : BitVec 4}
    {push pop : Instr} (hshort : lepa ∈ [0x1#4, 0x4#4, 0x6#4, 0x8#4]) (hpush : (lepa, push) ∈ pushLists)
    (hpop : (lepa, pop) ∈ popLists)
    (hlevel : lepa.getLsbD 1 = true ∨ lepa.getLsbD 2 = true → s.levelPresent s.useLevel = true) :
    ∃ t u, exec push s = .next t ∧ exec pop t = .next u ∧ Reloaded s u lepa :=
  pushLists_then_popLists hm hpush hpop hlevel (writable_below (pushFrame_length_le_eight s lepa hshort) hw)

/-- PUSH EA and PUSH LR with the POP of the same register. -/
def pointerPairs : List (Instr × Instr) := [(.pushEa, .popEa), (.pushLr, .popLr)]

theorem pointerPairs_restored {s : State} (hinv : Inv s) (hw : writable s 0 (s.sp - 8) 8) :
    ∀ p ∈ pointerPairs, ∃ t u, exec p.1 s = .next t ∧ exec p.2 t = .next u ∧ restored s u := by
  simp only [pointerPairs, List.forall_mem_cons, List.not_mem_nil, false_implies, implies_true, and_true]
  constructor
  · obtain ⟨t, u, ht, hu, h⟩ := shortLists_then_popLists (lepa := 0x1#4) (push := .pushEa) (pop := .popEa)
      hinv.mem hw (by decide) (by decide) (by decide) (by simp)
    exact ⟨t, u, ht, hu, restored_of_reloaded hinv.lr rfl h⟩
  · obtain ⟨t, u, ht, hu, h⟩ := shortLists_then_popLists (lepa := 0x8#4) (push := .pushLr) (pop := .popLr)
      hinv.mem hw (by decide) (by decide) (by decide) (by simp)
    exact ⟨t, u, ht, hu, restored_of_reloaded hinv.lr rfl h⟩

/-- Every level but 0 has an EPSW (10_state.md R65). -/
theorem epsw_isSome {s : State} {k : Level} (h : k ≠ 0) : ∃ p, s.epsw k = some p := by
  obtain rfl | rfl | rfl | rfl := level_cases k
  · exact absurd rfl h
  · exact ⟨s.epsw1, rfl⟩
  · exact ⟨s.epsw2, rfl⟩
  · exact ⟨s.epsw3, rfl⟩

/-- Settles O32: a group by its form, a list by its nibble; EPSW comes back as PSW. -/
theorem pushThenPopRestores : Obligations.PushThenPopRestores := by
  intro n s hinv hw
  refine ⟨List.forall_mem_append.2 ⟨groupPairs_restored n hinv.mem hw, pointerPairs_restored hinv hw⟩,
    fun hpresent hne => ?_⟩
  obtain ⟨p, hp⟩ := epsw_isSome hne
  obtain ⟨t, u, ht, hu, h⟩ := shortLists_then_popLists (lepa := 0x4#4) (push := .pushEpsw) (pop := .popPsw)
    hinv.mem hw (by decide) (by decide) (by decide) fun _ => hpresent
  exact ⟨t, u, ht, hu, h.sp, by rw [hp, h.epsw rfl p hp]⟩

/-- RTI at a level with an EPSW and registers that are present (48_branch.md R461). -/
theorem rti_of_present {s : State} {p : Byte} (hp : s.epsw s.useLevel = some p)
    (hpresent : s.levelPresent s.useLevel = true) :
    exec .rti s = .next (((s.setCsr (s.ecsr s.useLevel)).setPsw p).finish (s.elr s.useLevel)) := by
  have hexec : exec .rti s = s.returnFromInterrupt := rfl
  rw [hexec, State.returnFromInterrupt, hp]
  exact needLevel_present hpresent _

/-- Settles O33: the frame of ELR,EPSW holds what RTI takes from the backup registers. -/
theorem returnThroughStackIsRti : Obligations.ReturnThroughStackIsRti := by
  intro s hinv hne hpresent hw
  obtain ⟨p, hp⟩ := epsw_isSome hne
  obtain ⟨t, u, ht, hu, h⟩ := shortLists_then_popLists (lepa := 0x6#4) (push := .pushElrEpsw) (pop := .popPcPsw)
    hinv.mem hw (by decide) (by decide) (by decide) fun _ => hpresent
  exact ⟨t, u, _, ht, hu, rti_of_present hp hpresent, h.pc rfl, h.csr rfl, h.epsw rfl p hp, h.sp, rfl, h.regs,
    fun _ _ => rfl⟩

end Sys2Proof.Proofs.PushPop
end

section
/-! SUPPORT. The decimal adjustments by the rows of their tables, decimal arithmetic from them, and the sign
extension: O37 to O40. -/
namespace Sys2Proof.Proofs.LeaAlu
open Sys2Proof Sys2Proof.Machine

/-! A byte and PSW written by a one-word instruction -/

theorem setReg_setPsw_frame (s : State) (n : Reg) (v p : Byte) :
    onlyRegs s ((s.setReg n v).setPsw p).done s.nextPc [n] :=
  onlyRegs_finish rfl rfl (fun x hx => by simp_all) rfl rfl

theorem setReg_setPsw_reg (s : State) (n : Reg) (v p : Byte) : ((s.setReg n v).setPsw p).done.reg n = v := by
  simp

/-- PSW after an adjustment to `v`: C and HC are given, Z and S are of `v` (46_lea_alu.md R403, R404). -/
theorem pswIs_adjusted (p v : Byte) (c hc : Bool) :
    pswIs (putC (putHC (putLogic p v) hc) c) c (decide (v = 0)) v.msb (flagOV p) (flagMIE p) hc (elevelOf p) := by
  refine ⟨?_, ?_, ?_, ?_, ?_, ?_, ?_⟩ <;> simp
  rfl

/-! The tables -/

/-- The rows of the DAA table cover every byte at every C and HC (46_lea_alu.md R403). -/
theorem exists_daaRow_fits (c hc : Bool) (v : Byte) : ∃ x ∈ daaRows, x.1.fits c hc v := by
  have hhi : v.toNat / 16 ≤ 15 := by have := v.isLt; omega
  have hlo : v.toNat % 16 ≤ 15 := by omega
  simp only [daaRows, List.exists_mem_cons_iff, AdjustRow.fits]
  cases c
  all_goals cases hc
  -- at each C and HC, ranges of the two nibbles are left
  all_goals
    simp
    omega

/-- The rows of the DAS table cover every byte at every C and HC (46_lea_alu.md R404). -/
theorem exists_dasRow_fits (c hc : Bool) (v : Byte) : ∃ x ∈ dasRows, x.fits c hc v := by
  have hhi : v.toNat / 16 ≤ 15 := by have := v.isLt; omega
  have hlo : v.toNat % 16 ≤ 15 := by omega
  simp only [dasRows, List.exists_mem_cons_iff, AdjustRow.fits]
  cases c
  all_goals cases hc
  -- at each C and HC, ranges of the two nibbles are left
  all_goals
    simp
    omega

/-- The row that fits has the adjustment of DAA: row by row, the bounds of the nibbles decide its conditions. -/
theorem daaAdjustment_of_fits {c hc : Bool} {v : Byte} :
    ∀ x ∈ daaRows, x.1.fits c hc v → daaAdjustment c hc (hiNibble v) (loNibble v) = x.1.adj := by
  simp only [daaRows, List.forall_mem_cons, List.not_mem_nil, false_implies, implies_true, and_true, AdjustRow.fits]
  and_intros
  all_goals
    rintro ⟨rfl, rfl, hhi, hhi', hlo, hlo'⟩
    grind [daaAdjustment, hiNibble, loNibble]

/-- The row that fits has the adjustment of DAS. -/
theorem dasAdjustment_of_fits {c hc : Bool} {v : Byte} :
    ∀ x ∈ dasRows, x.fits c hc v → dasAdjustment c hc (hiNibble v) (loNibble v) = x.adj := by
  simp only [dasRows, List.forall_mem_cons, List.not_mem_nil, false_implies, implies_true, and_true, AdjustRow.fits]
  and_intros
  all_goals
    rintro ⟨rfl, rfl, hhi, hhi', hlo, hlo'⟩
    grind [dasAdjustment, hiNibble, loNibble]

/-- C after DAA is 1 in the rows that add 60H or more (46_lea_alu.md R403). -/
theorem daaRow_carry : ∀ x ∈ daaRows, decide (0x60 ≤ x.1.adj.toNat) = x.2 := by decide

/-- Settles O37: DAA adds the adjustment of the row that fits. -/
theorem decimalAdjustAdd : Obligations.DecimalAdjustAdd := by
  intro n s
  refine ⟨rfl, exists_daaRow_fits _ _ _, _, rfl, setReg_setPsw_frame _ _ _ _, fun x hx hfits => ?_⟩
  have hadj := daaAdjustment_of_fits x hx hfits
  rw [State.adjustAdd, hadj, daaRow_carry x hx, setReg_setPsw_reg]
  exact ⟨rfl, pswIs_adjusted s.psw _ _ _⟩

/-- Settles O38: DAS subtracts the adjustment of the row that fits. -/
theorem decimalAdjustSubtract : Obligations.DecimalAdjustSubtract := by
  intro n s
  refine ⟨rfl, exists_dasRow_fits _ _ _, _, rfl, setReg_setPsw_frame _ _ _ _, fun x hx hfits => ?_⟩
  have hadj := dasAdjustment_of_fits x hx hfits
  rw [State.adjustSub, hadj, setReg_setPsw_reg]
  exact ⟨rfl, pswIs_adjusted s.psw _ _ _⟩

/-! Decimal arithmetic -/

/-- The binary sum of two decimal bytes, adjusted by the DAA row that fits its carries, is their decimal sum. -/
theorem decimalSum_of_daaRow {a b r : Byte} (ha : isBcd a) (hb : isBcd b)
    (hr : r.toNat = (a.toNat + b.toNat) % 256) :
    ∀ x ∈ daaRows,
      x.1.fits (decide (256 ≤ a.toNat + b.toNat)) (decide (16 ≤ a.toNat % 16 + b.toNat % 16)) r →
        isBcd (r + x.1.adj) ∧ bcdValue a + bcdValue b = bcdValue (r + x.1.adj) + 100 * x.2.toNat := by
  obtain ⟨ha1, ha0⟩ := ha
  obtain ⟨hb1, hb0⟩ := hb
  simp only [daaRows, List.forall_mem_cons, List.not_mem_nil, false_implies, implies_true, and_true, AdjustRow.fits,
    isBcd, bcdValue, BitVec.toNat_add]
  and_intros
  all_goals
    rintro ⟨hc, hhc, hhi, hhi', hlo, hlo'⟩
    simp at hc hhc ⊢
    omega

/-- The binary difference of two decimal bytes, adjusted by the DAS row that fits its borrows, is their decimal
difference, and the adjustment borrows nothing more (46_lea_alu.md R404). -/
theorem decimalDifference_of_dasRow {a b r : Byte} (ha : isBcd a) (hb : isBcd b)
    (hr : r.toNat = (a.toNat + (256 - b.toNat)) % 256) :
    ∀ x ∈ dasRows,
      x.fits (decide (a.toNat < b.toNat)) (decide (a.toNat % 16 < b.toNat % 16)) r →
        isBcd (r - x.adj) ∧ x.adj.toNat ≤ r.toNat ∧
          bcdValue a + 100 * (decide (a.toNat < b.toNat)).toNat = bcdValue (r - x.adj) + bcdValue b := by
  obtain ⟨ha1, ha0⟩ := ha
  obtain ⟨hb1, hb0⟩ := hb
  simp only [dasRows, List.forall_mem_cons, List.not_mem_nil, false_implies, implies_true, and_true, AdjustRow.fits,
    isBcd, bcdValue, BitVec.toNat_sub]
  and_intros
  all_goals
    rintro ⟨hc, hhc, hhi, hhi', hlo, hlo'⟩
    rw [← hc]
    simp at hc hhc ⊢
    omega

/-- ADD and then DAA, by the row for the sum. -/
theorem add_then_daa (n m : Reg) (s : State) (ha : isBcd (s.reg n)) (hb : isBcd (s.reg m)) :
    ∃ t u, exec (.addRnRm n m) s = .next t ∧ exec (.daaRn n) t = .next u ∧ isBcd (u.reg n) ∧
      bcdValue (s.reg n) + bcdValue (s.reg m) = bcdValue (u.reg n) + 100 * (flagC u.psw).toNat := by
  obtain ⟨-, -, -, -, ⟨t, ht, -, hval, hc, -, -, -, -, hhc, -⟩, -⟩ := Arithmetic.addByteResult n m 0 s
  obtain ⟨-, ⟨x, hx, hfits⟩, u, hu, -, hrow⟩ := decimalAdjustAdd n t
  obtain ⟨hreg, hcarry, -⟩ := hrow x hx hfits
  refine ⟨t, u, ht, hu, ?_⟩
  rw [hreg, hcarry]
  rw [hc, hhc] at hfits
  exact decimalSum_of_daaRow ha hb (by rw [hval]; exact BitVec.toNat_ofNat _ _) x hx hfits

/-- SUB and then DAS, by the row for the difference. -/
theorem sub_then_das (n m : Reg) (s : State) (ha : isBcd (s.reg n)) (hb : isBcd (s.reg m)) :
    ∃ t u, exec (.subRnRm n m) s = .next t ∧ exec (.dasRn n) t = .next u ∧ isBcd (u.reg n) ∧
      bcdValue (s.reg n) + 100 * (flagC u.psw).toNat = bcdValue (u.reg n) + bcdValue (s.reg m) := by
  obtain ⟨-, -, -, ⟨t, ht, -, hval, hc, -, -, -, -, hhc, -⟩, -⟩ := Arithmetic.subtractAndCompareBytes.1 n m s
  obtain ⟨-, ⟨x, hx, hfits⟩, u, hu, -, hrow⟩ := decimalAdjustSubtract n t
  obtain ⟨hreg, hborrow, -⟩ := hrow x hx hfits
  rw [hc, hhc] at hfits
  have hr : (t.reg n).toNat = ((s.reg n).toNat + (256 - (s.reg m).toNat)) % 256 := by
    have hlt := (s.reg m).isLt
    rw [hval, BitVec.toNat_ofInt, Bool.toNat_false]
    omega
  obtain ⟨hbcd, hle, hvalue⟩ := decimalDifference_of_dasRow ha hb hr x hx hfits
  refine ⟨t, u, ht, hu, ?_⟩
  rw [hreg, hborrow, hc, decide_eq_false (Nat.not_lt.2 hle), Bool.or_false]
  exact ⟨hbcd, hvalue⟩

/-- Settles O39: the flags of the binary operation choose the row that makes its result decimal. -/
theorem decimalArithmeticIsCorrect : Obligations.DecimalArithmeticIsCorrect :=
  fun n m s ha hb => ⟨add_then_daa n m s ha hb, sub_then_das n m s ha hb⟩

/-! Sign extension -/

/-- A byte under a byte of copies of its top bit is the byte sign-extended (46_lea_alu.md R406). -/
theorem signByte_append (v : Byte) : (if v.msb then 0xFF#8 else 0x00#8) ++ v = v.signExtend 16 := by
  rw [BitVec.signExtend_eq_append_of_le (by decide)]
  cases v.msb <;> rfl

/-- EXTBW of the word register at any Rn (46_lea_alu.md R406). -/
theorem extendByte_result (s : State) (n : Reg) :
    onlyRegs s (s.extendByte n).done s.nextPc [n + 1] ∧ (s.extendByte n).done.er n = (s.reg n).signExtend 16 ∧
      zsFlags s.psw (s.extendByte n).done.psw (decide (s.reg n = 0)) (s.reg n).msb := by
  refine ⟨setReg_setPsw_frame s (n + 1) _ _, ?_, zsFlags_putLogic s.psw (s.reg n)⟩
  rw [← signByte_append]
  simp [State.er, State.extendByte]

/-- Settles O40: each of the eight is the sign extension of its register. -/
theorem signExtension : Obligations.SignExtension := by
  intro s
  simp only [List.forall_mem_cons, List.not_mem_nil, false_implies, implies_true, and_true]
  refine ⟨?_, ?_, ?_, ?_, ?_, ?_, ?_, ?_⟩
  all_goals exact ⟨rfl, _, rfl, extendByte_result s _⟩

end Sys2Proof.Proofs.LeaAlu
end

section
/-! SUPPORT. An instruction that reads a byte of memory and writes it back changed, and the instructions on one bit of a
register, of memory or of PSW: O41 to O44. -/
namespace Sys2Proof.Proofs.BitPsw
open Sys2Proof Sys2Proof.Machine
open Sys2Proof.Proofs.Arithmetic (setPsw_frame)
open Sys2Proof.Proofs.LeaAlu (setReg_setPsw_frame)
open Sys2Proof.Proofs.Scope (miOpen_iff miLingers_iff boundaryMi_of_closed)

/-! A byte read and written back -/

/-- The state with the offset `off` latched, memory `m` and the store record `ks`: what a store leaves. -/
def afterStore (s : State) (off : Word) (m : Memory) (ks : KeySet) : State :=
  { s with ar := off, mem := m, codeStores := ks }

theorem canRead_of_canStore {s : State} {off : Word} (h : canStore s off 1) :
    canRead s.dev (dataKey s.dev s.dseg off) = true := by
  have hread : readable s s.dseg off 1 := readable_of_writable h
  rw [readable, keysOf_succ] at hread
  exact hread _ List.mem_cons_self

/-- Where the byte at `DSEG:off` is writable memory, an instruction that makes `f` of it and goes on with `g` stores that
byte and goes on. -/
theorem update_of_canStore {s : State} {off : Word} (f : Byte → Byte) (g : Byte → State → Res State) (hm : s.mem.wf)
    (h : canStore s off 1) :
    ∃ m ks, (andThen (s.readByte s.dseg off) fun q => andThen (q.2.writeMem s.dseg off [f q.1]) (g q.1)) =
        g (s.mem.read (dataKey s.dev s.dseg off)) (afterStore s off m ks) ∧
      storedAt s (afterStore s off m ks) s.dseg off [f (s.mem.read (dataKey s.dev s.dseg off))] := by
  obtain ⟨w, hw, hsame, hstored, -⟩ := s.writeMem_of_writable s.dseg off
    [f (s.mem.read (dataKey s.dev s.dseg off))] hm (by simp) h
  have hafter : w = afterStore s off w.mem w.codeStores := hsame
  rw [hafter] at hw hstored
  refine ⟨w.mem, w.codeStores, ?_, hstored⟩
  rw [State.readByte_of_canRead s s.dseg off (canRead_of_canStore h), andThen_next, hw, andThen_next]

/-- The end of such an instruction, but for the PSW it sets. -/
theorem stored_of_afterStore {s : State} {off : Word} {m : Memory} {ks : KeySet} {v : Byte} (p : Byte) (next : Word)
    (h : storedAt s (afterStore s off m ks) s.dseg off [v]) :
    stored s { ((afterStore s off m ks).setPsw p).finish next with psw := s.psw } next off [v] s.ea :=
  stored_finish (t := afterStore s off m ks) s.ea rfl h

/-! One bit of a register or of memory -/

/-- SB and RB of a register bit write Rn and Z (47_bit_psw.md R420, R422). -/
theorem putBit_reg_frame (s : State) (n : Reg) (bit : BitVec 3) (b : Bool) :
    onlyRegs s ((s.testBit (s.reg n) bit).setReg n (putBit (s.reg n) bit.toNat b)).done s.nextPc [n] ∧
      ((s.testBit (s.reg n) bit).setReg n (putBit (s.reg n) bit.toNat b)).done.reg n = putBit (s.reg n) bit.toNat b ∧
      zFlag s.psw ((s.testBit (s.reg n) bit).setReg n (putBit (s.reg n) bit.toNat b)).done.psw
        (!(s.reg n).getLsbD bit.toNat) :=
  ⟨setReg_setPsw_frame s n _ _, by simp, zFlag_putZ s.psw _⟩

/-- Settles O41: SB and RB write the register and Z, TB writes Z alone. -/
theorem registerBitAccess : Obligations.RegisterBitAccess := by
  intro n bit s
  refine ⟨rfl, rfl, rfl, ⟨_, rfl, ?sb⟩, ⟨_, rfl, ?rb⟩, ⟨_, rfl, ?tb⟩⟩
  case sb => exact putBit_reg_frame s n bit true
  case rb => exact putBit_reg_frame s n bit false
  case tb => exact ⟨setPsw_frame s _ _, zFlag_putZ s.psw _⟩

/-- SB and RB of a memory bit (47_bit_psw.md R421, R423). -/
theorem putBit_mem {s : State} (bit : BitVec 3) {dadr : Word} (b : Bool) (hm : s.mem.wf) (h : canStore s dadr 1) :
    ∃ t, (andThen (s.readByte s.dseg dadr) fun q =>
        andThen (q.2.writeMem s.dseg dadr [putBit q.1 bit.toNat b]) fun w => .next (w.testBit q.1 bit).done2) =
          .next t ∧
      stored s { t with psw := s.psw } s.nextPc2 dadr
        [putBit (s.mem.read (dataKey s.dev s.dseg dadr)) bit.toNat b] s.ea ∧
      zFlag s.psw t.psw (!(s.mem.read (dataKey s.dev s.dseg dadr)).getLsbD bit.toNat) := by
  obtain ⟨m, ks, hexec, hstored⟩ := update_of_canStore (fun v => putBit v bit.toNat b)
    (fun v w => .next (w.testBit v bit).done2) hm h
  exact ⟨_, hexec, stored_of_afterStore _ s.nextPc2 hstored, zFlag_putZ s.psw _⟩

/-- TB of a memory bit changes AR and Z only (47_bit_psw.md R425). -/
theorem testBit_mem {s : State} (bit : BitVec 3) {dadr : Word} (h : canLoad s dadr 1) :
    ∃ t, exec (.tbDbitadr bit dadr) s = .next t ∧
      onlySpecial s { t with psw := s.psw } s.nextPc2 { s.special with ar := dadr } ∧
      zFlag s.psw t.psw (!(s.mem.read (dataKey s.dev s.dseg dadr)).getLsbD bit.toNat) := by
  have hread : canRead s.dev (dataKey s.dev s.dseg dadr) = true := by
    rw [canLoad, readable, alignOff, if_pos rfl, keysOf_succ] at h
    exact h _ List.mem_cons_self
  have hframe : onlySpecial s ((s.latchAr dadr).finish s.nextPc2) s.nextPc2 { s.special with ar := dadr } :=
    onlySpecial_finish rfl rfl (fun _ => rfl) rfl rfl rfl
  exact ⟨_, andThen_of (State.readByte_of_canRead s s.dseg dadr hread) _, hframe, zFlag_putZ s.psw _⟩

/-- Settles O42: SB and RB are updates of one byte, TB a read of it. -/
theorem memoryBitAccess : Obligations.MemoryBitAccess := by
  intro bit dadr s hm
  exact ⟨rfl, rfl, rfl, fun h => ⟨putBit_mem bit true hm h, putBit_mem bit false hm h⟩, testBit_mem bit⟩

/-! The bits of PSW -/

/-- Settles O43: each writes C, or nothing, and ends. -/
theorem carryFlagAndNop : Obligations.CarryFlagAndNop := by
  have carry (s : State) (b : Bool) : onlyRegs s (s.setPsw (putC s.psw b)).done s.nextPc [] ∧
      cFlag s.psw (s.setPsw (putC s.psw b)).done.psw b := ⟨setPsw_frame s _ _, cFlag_putC s.psw b⟩
  refine ⟨fun s => ⟨rfl, rfl, rfl, ⟨_, rfl, carry s true⟩, ⟨_, rfl, carry s false⟩, ⟨_, rfl, ?cplc⟩⟩,
    fun s => ⟨rfl, _, rfl, setPsw_frame s s.psw s.nextPc, rfl⟩⟩
  case cplc => exact carry s (!flagC s.psw)

theorem pswIs_putMIE (p : Byte) (b : Bool) :
    pswIs (putMIE p b) (flagC p) (flagZ p) (flagS p) (flagOV p) b (flagHC p) (elevelOf p) := by
  refine ⟨?_, ?_, ?_, ?_, ?_, ?_, ?_⟩ <;> simp

/-- EI is the write of MIE and the end of the instruction, but for the window of R576 (log 11). -/
theorem enableInterrupts_eq (s : State) :
    s.enableInterrupts = { (s.setPsw (putMIE s.psw true)).done with
      eiWindow := if flagMIE s.psw = true then s.eiWindow - 1 else 2 } := by
  rw [State.enableInterrupts]
  split_ifs <;> rfl

/-- With no maskable request acceptable and no window of R577 open, none is accepted (60_exceptions.md R507). -/
theorem boundary_ne_accept_mi {s : State} (ho : s.miOpen = false) (hl : s.miLingers = false) (v : MiSource)
    (u : State) : s.boundary ≠ .accept (.mi v) u := by
  intro h
  unfold State.boundary at h
  split_ifs at h
  case neg =>
    split at h
    next => cases h
    next w _ =>
      rw [boundaryMi_of_closed w ho hl] at h
      cases h
  all_goals cases h

/-- After DI MIE is 0, and the window of a cleared MIE is closed (47_bit_psw.md R427, log 12). -/
theorem disableInterrupts_closes (s : State) :
    s.disableInterrupts.miOpen = false ∧ s.disableInterrupts.miLingers = false := by
  have hmie : flagMIE s.disableInterrupts.psw ≠ true := Bool.eq_false_iff.1 (flagMIE_putMIE s.psw false)
  refine ⟨Bool.eq_false_iff.2 fun h => ?_, Bool.eq_false_iff.2 fun h => ?_⟩
  · exact hmie ((miOpen_iff _).1 h).1
  · obtain ⟨-, hopen, -⟩ := (miLingers_iff _).1 h
    exact absurd hopen (Nat.lt_irrefl 0)

/-- Settles O44: EI and DI write MIE and one window; after DI neither MIE nor a window lets a maskable request in. -/
theorem interruptEnableInstructions : Obligations.InterruptEnableInstructions := by
  intro s
  have hei : exec .ei s = .next s.enableInterrupts := rfl
  refine ⟨rfl, rfl, ⟨_, hei, ?ei⟩, ⟨_, rfl, ?di⟩⟩
  case ei =>
    rw [enableInterrupts_eq]
    exact ⟨⟨rfl, rfl, rfl, rfl⟩, fun _ _ => rfl, fun _ _ => rfl, rfl, pswIs_putMIE s.psw true, rfl, rfl, rfl⟩
  case di =>
    obtain ⟨hopen, hlingers⟩ := disableInterrupts_closes s
    exact ⟨⟨rfl, rfl, rfl, rfl⟩, fun _ _ => rfl, fun _ _ => rfl, rfl, pswIs_putMIE s.psw false, rfl, rfl, rfl,
      boundary_ne_accept_mi hopen hlingers⟩

end Sys2Proof.Proofs.BitPsw
end

section
/-! SUPPORT. Branches, calls and returns, each by its one jump, and the software entries: O45, O46 and O48 to O51. -/
namespace Sys2Proof.Proofs.Branch
open Sys2Proof Sys2Proof.Machine
open Sys2Proof.Proofs.Scope (even_iff)
open Sys2Proof.Proofs.DataMemory (swiVector_even exec_brk)
open Sys2Proof.Proofs.PushPop (epsw_isSome rti_of_present)

/-! Relative branches -/

/-- A jump that changes nothing else. -/
theorem jump_frame (s : State) (off : Word) : onlyRegs s (s.finish off) off [] ∧ (s.finish off).psw = s.psw :=
  ⟨onlyRegs_finish rfl rfl (fun _ _ => rfl) rfl rfl, rfl⟩

/-- A conditional branch goes to its target or to the next instruction (48_branch.md R440). -/
theorem branched_branchIf (s : State) (c : Bool) (disp : Byte) : branched s (s.branchIf c disp) c disp := by
  cases c with
  | false => exact jump_frame s s.nextPc
  | true => exact jump_frame s (s.relTarget disp)

/-- Settles O45: each is a conditional branch. -/
theorem unsignedBranches : Obligations.UnsignedBranches := by
  intro disp s
  refine ⟨rfl, rfl, rfl, rfl, rfl, rfl, rfl, ⟨_, rfl, ?_⟩, ⟨_, rfl, ?_⟩, ⟨_, rfl, ?_⟩, ⟨_, rfl, ?_⟩, ⟨_, rfl, ?_⟩,
    ⟨_, rfl, ?_⟩, ⟨_, rfl, ?_⟩⟩
  all_goals exact branched_branchIf s _ disp

/-- Settles O46: each is a conditional branch. -/
theorem signedBranches : Obligations.SignedBranches := by
  intro disp s
  refine ⟨rfl, rfl, rfl, rfl, rfl, rfl, rfl, rfl, ⟨_, rfl, ?_⟩, ⟨_, rfl, ?_⟩, ⟨_, rfl, ?_⟩, ⟨_, rfl, ?_⟩,
    ⟨_, rfl, ?_⟩, ⟨_, rfl, ?_⟩, ⟨_, rfl, ?_⟩, ⟨_, rfl, ?_⟩⟩
  all_goals exact branched_branchIf s _ disp

/-! Far branches, calls and returns -/

/-- A segment that exists lets a far branch go on from the same state (10_state.md R68, 48_branch.md R456). -/
theorem needSegment_present {α : Type} {s : State} {g : CodeSeg} (h : s.isLarge = true ∨ g = 0) (f : State → Res α) :
    andThen (s.needSegment g) f = f s := by
  have hg : ¬ (!s.isLarge && g != 0) = true := by
    obtain h | h := h <;> simp [h]
  rw [State.needSegment, if_neg hg, andThen_next]

/-- In the SMALL model a segment other than 0 stops a far branch (10_state.md R68). -/
theorem needSegment_absent {α : Type} {s : State} {g : CodeSeg} (hs : s.isLarge = false) (hg : g ≠ 0)
    (f : State → Res α) : andThen (s.needSegment g) f = .refused .segmentOutsideSmall := by
  have hc : (!s.isLarge && g != 0) = true := by rw [hs]; exact bne_iff_ne.2 hg
  rw [State.needSegment, if_pos hc, andThen_refused]

/-- A jump into the segment `g` (48_branch.md R456, R460). -/
theorem onlySpecial_setCsr (s : State) (g : CodeSeg) (off : Word) :
    onlySpecial s ((s.setCsr g).finish off) off { s.special with csr := if s.isLarge then g else s.csr } :=
  onlySpecial_finish rfl rfl (fun _ => rfl) rfl rfl rfl

/-- The special registers after a call at which `next` is the next instruction and CSR becomes `c` (48_branch.md R458,
R459). -/
def calledSpecial (s : State) (next : Word) (c : CodeSeg) : Special :=
  { s.special with csr := c, lcsr := if s.isLarge then s.csr else s.lcsr, lr := next &&& 0xFFFE#16 }

/-- BL Cadr where its segment exists (48_branch.md R458). -/
theorem blCadr_present {g : CodeSeg} {s : State} (cadr : Word) (h : s.isLarge = true ∨ g = 0) :
    ∃ t, exec (.blCadr g cadr) s = .next t ∧
      onlySpecial s t cadr (calledSpecial s s.nextPc2 (if s.isLarge then g else s.csr)) :=
  ⟨_, needSegment_present h _, onlySpecial_finish rfl rfl (fun _ => rfl) rfl rfl rfl⟩

/-- BL ERn (48_branch.md R459). -/
theorem blErn_called (n : Reg) (s : State) :
    ∃ t, exec (.blErn n) s = .next t ∧ onlySpecial s t (s.er n) (calledSpecial s s.nextPc s.csr) :=
  ⟨_, rfl, onlySpecial_finish rfl rfl (fun _ => rfl) rfl rfl rfl⟩

/-- RT (48_branch.md R460). -/
theorem rt_returns (s : State) :
    ∃ t, exec .rt s = .next t ∧ onlySpecial s t s.lr { s.special with csr := if s.isLarge then s.lcsr else s.csr } := by
  have hseg : (if s.isLarge then s.segRead s.lcsr else s.csr) = if s.isLarge then s.lcsr else s.csr :=
    ite_congr rfl (fun hl => if_pos hl) fun _ => rfl
  exact ⟨_, rfl, hseg ▸ onlySpecial_setCsr s (s.segRead s.lcsr) s.lr⟩

/-- Settles O48: each is one jump, with the segment and the link it names. -/
theorem farBranchesAndReturn : Obligations.FarBranchesAndReturn := by
  intro g cadr n s
  refine ⟨rfl, rfl, rfl, rfl, rfl, fun h => ⟨⟨_, needSegment_present h _, onlySpecial_setCsr s g cadr⟩,
    blCadr_present cadr h⟩, fun hs hg => ⟨needSegment_absent hs hg _, needSegment_absent hs hg _⟩, ⟨_, rfl, ?bErn⟩,
    blErn_called n s, rt_returns s⟩
  case bErn => exact onlySpecial_finish rfl rfl (fun _ => rfl) rfl rfl rfl

/-- RT after a call comes back to the instruction after it, in its segment: in the LARGE model from LCSR, in the SMALL
model because the call left CSR alone (48_branch.md R460). -/
theorem returns_of_called {s t : State} {off next : Word} {c : CodeSeg} (hnext : next &&& 0xFFFE#16 = next)
    (hc : s.isLarge = false → c = s.csr) (h : onlySpecial s t off (calledSpecial s next c)) :
    ∃ u, exec .rt t = .next u ∧ u.pc = next ∧ u.csr = s.csr ∧ u.psw = s.psw ∧ u.sp = s.sp ∧ sameRegsBut s u [] ∧
      sameMemBut s u [] := by
  obtain ⟨-, hregs, hmem, hspecial, hpsw⟩ := h
  have hlr : t.lr = next &&& 0xFFFE#16 := congrArg Special.lr hspecial
  have hcsr : t.csr = c := congrArg Special.csr hspecial
  have hlcsr : t.lcsr = if s.isLarge then s.csr else s.lcsr := congrArg Special.lcsr hspecial
  have hsp : t.sp = s.sp := congrArg Special.sp hspecial
  have hlarge : t.isLarge = s.isLarge := by
    rw [State.isLarge, show t.dev = s.dev from congrArg Special.dev hspecial, State.isLarge]
  obtain ⟨u, hu, ⟨⟨hpc, -⟩, -⟩, huregs, humem, huspecial, hupsw⟩ := rt_returns t
  have hucsr : u.csr = if t.isLarge then t.lcsr else t.csr := congrArg Special.csr huspecial
  have husp : u.sp = t.sp := congrArg Special.sp huspecial
  refine ⟨u, hu, by rw [hpc, hlr, hnext, hnext], ?segment, hupsw.trans hpsw, husp.trans hsp,
    fun x hx => (huregs x hx).trans (hregs x hx), fun k hk => (humem k hk).trans (hmem k hk)⟩
  rw [hucsr, hlarge, hlcsr, hcsr]
  cases hl : s.isLarge with
  | false => exact hc hl
  | true => rfl

theorem even_add {v w : Word} (hv : v &&& 0xFFFE#16 = v) (hw : w &&& 0xFFFE#16 = w) :
    (v + w) &&& 0xFFFE#16 = v + w := by
  rw [even_iff] at hv hw ⊢
  rw [BitVec.toNat_add]
  omega

/-- Settles O49: both calls link the next instruction, and RT undoes them. -/
theorem callThenReturn : Obligations.CallThenReturn := by
  intro g cadr n s hinv
  refine ⟨fun h => ?blCadr, ?blErn⟩
  case blCadr =>
    obtain ⟨t, ht, hcalled⟩ := blCadr_present cadr h
    obtain ⟨u, hu, hback⟩ := returns_of_called (even_add hinv.pc rfl) (fun hs => if_neg (by simp [hs])) hcalled
    exact ⟨t, u, ht, hu, hback⟩
  case blErn =>
    obtain ⟨t, ht, hcalled⟩ := blErn_called n s
    obtain ⟨u, hu, hback⟩ := returns_of_called (even_add hinv.pc rfl) (fun _ => rfl) hcalled
    exact ⟨t, u, ht, hu, hback⟩

/-- Settles O50: at level 0 there is no EPSW; at the others RTI writes CSR and PSW and jumps. -/
theorem returnFromInterruptEffect : Obligations.ReturnFromInterruptEffect := by
  intro s
  refine ⟨rfl, fun h0 => ?level0, fun hne hpresent => ?back⟩
  case level0 =>
    have hexec : exec .rti s = s.returnFromInterrupt := rfl
    rw [hexec, State.returnFromInterrupt, h0]
    rfl
  case back =>
    obtain ⟨p, hp⟩ := epsw_isSome hne
    exact ⟨_, rti_of_present hp hpresent, hp.symm, onlySpecial_setCsr s (s.ecsr s.useLevel) (s.elr s.useLevel)⟩

/-! Software entries -/

/-- Settles O51: SWI and BRK are entries where their level is present, BRK at level 2 or 3 is the reset sequence. -/
theorem softwareEntries : Obligations.SoftwareEntries := by
  refine ⟨fun snum s => ⟨rfl, fun hf => ?swi⟩, fun s => ⟨rfl, fun hlevel hf => ?brk, fun hlevel hf => ?reset⟩⟩
  case swi => exact State.enter_of_fetchable (k := 1#2) (cl := true) (by decide) rfl (by rwa [swiVector_even])
  case brk =>
    rw [exec_brk, if_neg (by omega)]
    exact State.enter_of_fetchable (k := 2#2) (cl := false) (by decide) rfl hf
  case reset =>
    obtain ⟨t, ht, hreset, -⟩ := State.resetSequence_of_fetchable hf
    exact ⟨t, by rw [exec_brk, if_pos hlevel, ht], hreset⟩

end Sys2Proof.Proofs.Branch
end

section
/-! SUPPORT. Products, quotients and remainders in registers, and the increment of a memory byte: O52 and O53. -/
namespace Sys2Proof.Proofs.MulDiv
open Sys2Proof Sys2Proof.Machine
open Sys2Proof.Proofs.Scope (pswIs_inc pswIs_dec)
open Sys2Proof.Proofs.BitPsw (update_of_canStore stored_of_afterStore)

/-! MUL -/

/-- The product of two bytes fits in a word (49_muldiv_misc.md R480). -/
theorem toNat_mul_bytes (a b : Byte) : (a.zeroExtend 16 * b.zeroExtend 16 : Word).toNat = a.toNat * b.toNat := by
  have hfits : a.toNat * b.toNat < 2 ^ 16 :=
    (Nat.mul_lt_mul'' a.isLt b.isLt).trans_eq (by norm_num)
  have ha : a.toNat < 2 ^ 16 := a.isLt.trans (by norm_num)
  have hb : b.toNat < 2 ^ 16 := b.isLt.trans (by norm_num)
  rw [BitVec.toNat_mul, BitVec.toNat_setWidth, BitVec.toNat_setWidth, Nat.mod_eq_of_lt ha, Nat.mod_eq_of_lt hb,
    Nat.mod_eq_of_lt hfits]

theorem beq_zero_eq_decide {w : Nat} (v : BitVec w) : (v == 0) = decide (v.toNat = 0) := by
  rw [Bool.eq_iff_iff, beq_iff_eq, decide_eq_true_iff, ← BitVec.toNat_inj]
  rfl

theorem multiply_effect (n m : Reg) (s : State) :
    onlyRegs s (s.multiply n m).done s.nextPc [n, n + 1] ∧
      ((s.multiply n m).done.er n).toNat = (s.reg n).toNat * (s.reg m).toNat ∧
      zFlag s.psw (s.multiply n m).done.psw (decide ((s.reg n).toNat * (s.reg m).toNat = 0)) := by
  have her : (s.multiply n m).done.er n = (s.reg n).zeroExtend 16 * (s.reg m).zeroExtend 16 := s.er_setEr n _
  refine ⟨onlyRegs_finish rfl rfl (fun x hx => by simp_all [State.multiply]) rfl rfl, ?_, ?_⟩
  · rw [her, toNat_mul_bytes]
  · rw [← toNat_mul_bytes, ← beq_zero_eq_decide]
    exact zFlag_putZ s.psw _

/-! DIV -/

/-- PSW after DIV: C and Z are given, the rest stays (49_muldiv_misc.md R481). -/
theorem pswIs_putC_putZ (p : Byte) (c z : Bool) :
    pswIs (putC (putZ p z) c) c z (flagS p) (flagOV p) (flagMIE p) (flagHC p) (elevelOf p) := by
  refine ⟨?_, ?_, ?_, ?_, ?_, ?_, ?_⟩ <;> simp

/-- A write of a byte register outside ERn leaves ERn. -/
theorem er_setReg_ne {s : State} {n m : Reg} (v : Byte) (h0 : m ≠ n) (h1 : m ≠ n + 1) :
    (s.setReg m v).er n = s.er n := by
  rw [State.er, State.reg_setReg, State.reg_setReg, if_neg h0.symm, if_neg h1.symm, State.er]

theorem divide_of_ne_zero {n m : Reg} {s : State} (hd : s.reg m ≠ 0) :
    s.divide n m =
      ((s.setEr n (BitVec.ofNat 16 ((s.er n).toNat / (s.reg m).toNat))).setReg m
        (BitVec.ofNat 8 ((s.er n).toNat % (s.reg m).toNat))).setPsw
          (putC (putZ s.psw (BitVec.ofNat 16 ((s.er n).toNat / (s.reg m).toNat) == 0)) false) := if_neg hd

theorem divide_of_zero {n m : Reg} {s : State} (hd : s.reg m = 0) :
    s.divide n m =
      (((s.drawn 1).setEr n (Config.freeWord s.draws)).setReg m (Config.freeByte s.draws)).setPsw
        (putC (putZ s.psw (Config.freeBit s.draws)) true) := if_pos hd

theorem divide_frame (s : State) (n m x : Reg) (hx : x ∉ [n, n + 1, m]) : (s.divide n m).reg x = s.reg x := by
  by_cases hd : s.reg m = 0
  · rw [divide_of_zero hd]
    simp_all
  · rw [divide_of_ne_zero hd]
    simp_all

/-- DIV by a nonzero register outside the dividend: the quotient fits in a word as the dividend does, the remainder in a
byte as the divisor does (49_muldiv_misc.md R481). -/
theorem divide_effect {n m : Reg} {s : State} (h0 : m ≠ n) (h1 : m ≠ n + 1) (hd : s.reg m ≠ 0) :
    onlyRegs s (s.divide n m).done s.nextPc [n, n + 1, m] ∧
      ((s.divide n m).done.er n).toNat = (s.er n).toNat / (s.reg m).toNat ∧
      ((s.divide n m).done.reg m).toNat = (s.er n).toNat % (s.reg m).toNat ∧
      pswIs (s.divide n m).done.psw false (decide ((s.er n).toNat / (s.reg m).toNat = 0)) (flagS s.psw)
        (flagOV s.psw) (flagMIE s.psw) (flagHC s.psw) (elevelOf s.psw) := by
  have hpos : 0 < (s.reg m).toNat := Nat.pos_of_ne_zero fun h => hd (BitVec.eq_of_toNat_eq h)
  have hquot : (BitVec.ofNat 16 ((s.er n).toNat / (s.reg m).toNat)).toNat = (s.er n).toNat / (s.reg m).toNat :=
    Nat.mod_eq_of_lt ((Nat.div_le_self _ _).trans_lt (s.er n).isLt)
  have hrem : (BitVec.ofNat 8 ((s.er n).toNat % (s.reg m).toNat)).toNat = (s.er n).toNat % (s.reg m).toNat :=
    Nat.mod_eq_of_lt ((Nat.mod_lt _ hpos).trans (s.reg m).isLt)
  have hregs := divide_frame s n m
  rw [divide_of_ne_zero hd] at hregs ⊢
  refine ⟨onlyRegs_finish rfl rfl hregs rfl rfl, ?er, ?reg, ?psw⟩
  case er => exact (congrArg BitVec.toNat ((er_setReg_ne _ h0 h1).trans (s.er_setEr n _))).trans hquot
  case reg => simpa using hrem
  case psw =>
    rw [beq_zero_eq_decide, hquot]
    exact pswIs_putC_putZ s.psw _ _

/-- DIV by zero: free values in its registers and Z, one draw (49_muldiv_misc.md R481, log 23). -/
theorem divide_zero_effect {n m : Reg} {s : State} (hd : s.reg m = 0) :
    continuesAt s (s.divide n m).done s.nextPc ∧ sameRegsBut s (s.divide n m).done [n, n + 1, m] ∧
      sameMemBut s (s.divide n m).done [] ∧ (s.divide n m).done.special = { s.special with draws := s.draws + 1 } ∧
      pswIs (s.divide n m).done.psw true (flagZ (s.divide n m).done.psw) (flagS s.psw) (flagOV s.psw) (flagMIE s.psw)
        (flagHC s.psw) (elevelOf s.psw) := by
  have hregs := divide_frame s n m
  rw [divide_of_zero hd] at hregs ⊢
  obtain ⟨hc, -, hrest⟩ := pswIs_putC_putZ s.psw true (Config.freeBit s.draws)
  exact ⟨continuesAt_finish rfl rfl, hregs, fun _ _ => rfl, rfl, hc, rfl, hrest⟩

/-- Settles O52: the product, and the three cases of the divisor. -/
theorem multiplyAndDivide : Obligations.MultiplyAndDivide := by
  refine ⟨fun n m s => ⟨rfl, _, rfl, multiply_effect n m s⟩, fun n m s => ?div⟩
  have overlap (h : m = n ∨ m = n + 1) : exec (.divErnRm n m) s = .refused .divisorInsideDividend := if_pos h
  have apart (h0 : m ≠ n) (h1 : m ≠ n + 1) : exec (.divErnRm n m) s = .next (s.divide n m).done :=
    if_neg (not_or.2 ⟨h0, h1⟩)
  exact ⟨rfl, overlap, fun h0 h1 hd => ⟨_, apart h0 h1, divide_effect h0 h1 hd⟩,
    fun h0 h1 hd => ⟨_, apart h0 h1, divide_zero_effect hd⟩⟩

/-! INC and DEC -/

theorem addN_one_val (v : Byte) : (addN v 1 false).val = v + 1 := by
  apply BitVec.eq_of_toNat_eq
  simp [addN]

theorem subN_one_val (v : Byte) : (subN v 1 false).val = v - 1 := by
  apply BitVec.eq_of_toNat_eq
  simp [subN, BitVec.toNat_ofInt, BitVec.toNat_sub]
  omega

/-- Settles O53: INC and DEC are updates of the byte at `DSEG:EA`. -/
theorem memoryIncrementDecrement : Obligations.MemoryIncrementDecrement := by
  refine fun s => ⟨rfl, rfl, fun hm h => ⟨?inc, ?dec⟩⟩
  case inc =>
    obtain ⟨m, ks, hexec, hstored⟩ := update_of_canStore (fun v => (addN v 1 false).val)
      (fun v w => .next (w.setPsw (putZSOVHC w.psw (addN v 1 false))).done) hm h
    rw [addN_one_val] at hstored
    exact ⟨_, hexec, stored_of_afterStore _ s.nextPc hstored, pswIs_inc s.psw _⟩
  case dec =>
    obtain ⟨m, ks, hexec, hstored⟩ := update_of_canStore (fun v => (subN v 1 false).val)
      (fun v w => .next (w.setPsw (putZSOVHC w.psw (subN v 1 false))).done) hm h
    rw [subN_one_val] at hstored
    exact ⟨_, hexec, stored_of_afterStore _ s.nextPc hstored, pswIs_dec s.psw _⟩

end Sys2Proof.Proofs.MulDiv
end

section
/-! SUPPORT. A step that accepts a request or the reset input: O56 and O58. -/
namespace Sys2Proof.Proofs.Exceptions
open Sys2Proof Sys2Proof.Machine
open Sys2Proof.Proofs.Scope (miLingers_iff)

theorem step_of_accept {s u : State} {q : Request} (h : s.boundary = .accept q u) : step s = u.acceptRequest q := by
  rw [step, h]

/-- The reset input comes before everything else at a boundary (70_reset_and_hazards.md R560). -/
theorem step_of_resetIn {s : State} (h : s.resetIn = true) : step s = s.acceptReset := by
  have hb : s.boundary = .reset := if_pos h
  rw [step, hb]

/-- The PSW a maskable acceptance saves is that of the boundary but for MIE (70_reset_and_hazards.md R577, log 38). -/
theorem pswIs_miSavedPsw (u : State) :
    pswIs u.miSavedPsw (flagC u.psw) (flagZ u.psw) (flagS u.psw) (flagOV u.psw) (flagMIE u.miSavedPsw) (flagHC u.psw)
      (elevelOf u.psw) := by
  rw [State.miSavedPsw]
  split
  · refine ⟨?_, ?_, ?_, ?_, rfl, ?_, ?_⟩ <;> simp
  · exact ⟨rfl, rfl, rfl, rfl, rfl, rfl, rfl⟩

/-- Outside the window of R577 the saved PSW is that of the boundary. -/
theorem miSavedPsw_of_closed {u : State} (h : flagMIE u.psw = true ∨ u.mieWindow = 0) : u.miSavedPsw = u.psw := by
  refine if_neg fun hl => ?_
  obtain ⟨hmie, hopen, -⟩ := (miLingers_iff u).1 hl
  obtain h | h := h
  · simp [h] at hmie
  · omega

/-- Settles O56: the acceptance is an entry of the request's level, from a state that no longer holds the request. -/
theorem acceptanceEntry : Obligations.AcceptanceEntry := by
  intro s u q hb
  cases q with
  | nmice =>
    intro hpresent hf
    rw [step_of_accept hb]
    exact State.enter_of_fetchable (s := { u with req := u.req.filter (· ≠ .nmice) }) (cl := false) (by decide)
      hpresent hf
  | nmi =>
    intro hf
    rw [step_of_accept hb]
    exact State.enter_of_fetchable (s := { u with req := u.req.filter (· ≠ .nmi) }) (cl := false) (by decide) rfl hf
  | mi v =>
    intro hf
    obtain ⟨t, ht, hentered⟩ := State.enter_of_fetchable (k := 1#2) (vec := miVector v) (ret := u.pc) (cl := true)
      (saved := u.miSavedPsw)
      (s := { u with req := u.req.filter (· ≠ .mi v), draws := u.draws + 1 }) (by decide) rfl
      (by rw [miVector_even]; exact hf)
    exact ⟨t, u.miSavedPsw, (step_of_accept hb).trans ht, hentered, pswIs_miSavedPsw u, miSavedPsw_of_closed⟩

/-- Settles O58: the step is the reset sequence with the input released. -/
theorem resetInputSequence : Obligations.ResetInputSequence := by
  intro s hreset hf
  obtain ⟨t, ht, hwas, hreleased⟩ := State.resetSequence_of_fetchable (s := { s with resetIn := false }) hf
  exact ⟨t, (step_of_resetIn hreset).trans ht, hwas, hreleased⟩

end Sys2Proof.Proofs.Exceptions
end

section
/-! SUPPORT. The moves between general and coprocessor registers, and every form between coprocessor registers and
memory where a coprocessor is fitted and MEMMAP has memory: O34 to O36. -/
namespace Sys2Proof.Proofs.Coprocessor
open Sys2Proof Sys2Proof.Machine
open Sys2Proof.Proofs.Scope (coLoadForms_exec coStoreForms_exec coLoaded_finish coTaken_store cregsDrawn_eq)
open Sys2Proof.Proofs.ControlReg (onlySpecial_done)

/-! Register moves -/

/-- What needs a coprocessor goes on from the same state where one is fitted (45_coprocessor.md R388). -/
theorem needCoprocessor_fitted {α : Type} {s : State} (hc : s.dev.coprocessor ≠ .absent) (f : State → Res α) :
    andThen s.needCoprocessor f = f s := by
  rw [State.needCoprocessor, if_neg hc, andThen_next]

theorem onlySpecial_setCreg (s : State) (n : Reg) (v : Byte) :
    onlySpecial s (s.setCreg n v).done s.nextPc { s.special with cr := (s.setCreg n v).done.cr } :=
  onlySpecial_done rfl rfl rfl (fun _ => rfl) rfl rfl rfl

/-- The one byte a read of CRm gives: a free value where the coprocessor is a device (45_coprocessor.md R388, log 14). -/
def cregByte (s : State) (m : Reg) : Byte :=
  if s.dev.coprocessor = .device then Config.freeByte s.draws else s.creg m

theorem cregs_one (s : State) (m : Reg) : s.cregs m 1 = [cregByte s m] := by
  simp [State.cregs, cregByte]

theorem cregByte_of_storage {s : State} (m : Reg) (h : s.dev.coprocessor = .storage) : cregByte s m = s.creg m := by
  rw [cregByte, if_neg (by rw [h]; decide)]

/-- MOV Rn,CRm as one write of Rn, after the draw a device costs (45_coprocessor.md R379). -/
theorem exec_movRnCrm {s : State} (n m : Reg) (hc : s.dev.coprocessor ≠ .absent) :
    exec (.movRnCrm n m) s = .next ((s.cregsDrawn 1).setReg n (cregByte s m)).done := by
  refine (needCoprocessor_fitted hc _).trans ?_
  rw [cregs_one]
  rfl

/-- Settles O34: each move is one write of the register, after the draw that reading a device costs. -/
theorem coprocessorRegisterMoves : Obligations.CoprocessorRegisterMoves := by
  intro n m s hc
  refine ⟨rfl, rfl, ⟨_, needCoprocessor_fitted hc _, ?written, fun x hx => ?others, onlySpecial_setCreg s n (s.reg m)⟩,
    _, exec_movRnCrm n m hc, fun hstorage => ?read, ?frame⟩
  case written => simp
  case others => simp [hx]
  case read => simp [cregByte_of_storage m hstorage]
  case frame =>
    rw [cregsDrawn_eq]
    refine ⟨continuesAt_finish rfl rfl, fun x hx => ?_, fun _ _ => rfl, rfl, rfl⟩
    exact (State.reg_setReg _ n x _).trans (if_neg (by simpa using hx))

/-! Loads -/

/-- A load of coprocessor registers and the end of its form, where memory can be read. -/
theorem coLoaded_of_canLoad {s : State} {n : Reg} {k : Nat} (ea : Word) (hk : k ≤ 8)
    (hc : s.dev.coprocessor ≠ .absent) (h : canLoad s s.ea k) :
    ∃ t, (andThen (s.loadCregs n k) fun t => .next ((t.setEa ea).finish s.nextPc)) = .next t ∧
      coLoaded s t n k ea :=
  ⟨_, by rw [s.loadCregs_of_canLoad n k hc h, andThen_next], coLoaded_finish s n k ea (by omega)⟩

theorem coLoadForms_load {s : State} (hc : s.dev.coprocessor ≠ .absent) (n : Reg) :
    ∀ x ∈ coLoadForms s n, canLoad s s.ea x.size →
      ∃ t, exec x.instr s = .next t ∧ coLoaded s t n x.size x.ea := by
  intro x hx h
  obtain ⟨hsize, -, hnext, hexec⟩ := coLoadForms_exec s n x hx
  rw [hexec, hnext]
  exact coLoaded_of_canLoad x.ea hsize hc h

/-- Settles O35: two of the eight load forms have each size, one for `[EA]` and one for `[EA+]`. -/
theorem coprocessorLoads : Obligations.CoprocessorLoads := by
  intro n s hc
  have forms := coLoadForms_load hc n
  simp only [coLoadForms, List.forall_mem_cons] at forms
  obtain ⟨byte, byteInc, word, wordInc, double, doubleInc, quad, quadInc, -⟩ := forms
  exact ⟨rfl, rfl, rfl, rfl, rfl, rfl, rfl, rfl, fun h => ⟨byte h, byteInc h⟩, fun h => ⟨word h, wordInc h⟩,
    fun h => ⟨double h, doubleInc h⟩, fun h => ⟨quad h, quadInc h⟩⟩

/-! Stores -/

/-- Where every byte is writable memory, what a store of coprocessor registers gave to memory and devices is in memory
(20_memory.md R116). -/
theorem coStored_of_coTaken {s t : State} {m : Reg} {k : Nat} {ea : Word} (h : canStore s s.ea k)
    (ht : coTaken s t m k ea) : coStored s t m k ea := by
  obtain ⟨hcont, hregs, hpsw, ⟨bytes, hlen, hstorage, htaken⟩, hspecial⟩ := ht
  have hdev : t.dev = s.dev := congrArg Special.dev hspecial
  have hw : writable s s.dseg (alignOff k s.ea) bytes.length := hlen ▸ h
  exact ⟨hcont, hregs, hpsw, ⟨bytes, hlen, hstorage, storedAt_of_takenAt hdev hw htaken⟩, hspecial⟩

theorem coStoreForms_store {s : State} (hc : s.dev.coprocessor ≠ .absent) (hm : s.mem.wf) (m : Reg) :
    ∀ x ∈ coStoreForms s m, canStore s s.ea x.size →
      ∃ t, exec x.instr s = .next t ∧ coStored s t m x.size x.ea := by
  intro x hx h
  obtain ⟨hsize, -, hnext, hexec⟩ := coStoreForms_exec s m x hx
  obtain ⟨t, ht, htaken⟩ := coTaken_store x.ea hm hsize hc (takes_of_writable h)
  rw [hexec, hnext]
  exact ⟨t, ht, coStored_of_coTaken h htaken⟩

/-- Settles O36: two of the eight store forms have each size, one for `[EA]` and one for `[EA+]`. -/
theorem coprocessorStores : Obligations.CoprocessorStores := by
  intro m s hc hm
  have forms := coStoreForms_store hc hm m
  simp only [coStoreForms, List.forall_mem_cons] at forms
  obtain ⟨byte, byteInc, word, wordInc, double, doubleInc, quad, quadInc, -⟩ := forms
  exact ⟨rfl, rfl, rfl, rfl, rfl, rfl, rfl, rfl, fun h => ⟨byte h, byteInc h⟩, fun h => ⟨word h, wordInc h⟩,
    fun h => ⟨double h, doubleInc h⟩, fun h => ⟨quad h, quadInc h⟩⟩

end Sys2Proof.Proofs.Coprocessor
end
